-- ==== Sys2Proof/Word.lean ====
section
/-!
DEFINITION. The word types of Brownie STD 32 (00_scope.md R5, R6, R7): 32-bit data and addresses, bytes, halfwords,
5-bit register indexes, and the plainest arithmetic on them.
-/

namespace Sys2Proof

/-- A 32-bit register value, address or instruction word (00_scope.md R5: "Data length 32"). -/
abbrev Word := BitVec 32

/-- The addressable unit of data memory (20_memory.md R52). -/
abbrev Byte := BitVec 8

/-- Half a word (00_scope.md R12). -/
abbrev Half := BitVec 16

/-- A register index 0..31, the 5-bit field that names a general register (30_encoding.md R89). -/
abbrev RegIdx := BitVec 5

/-- GPR0, the Zero Register (10_state.md R22). -/
abbrev zeroReg : RegIdx := 0#5

/-- GPR1, the Status Register (10_state.md R23). -/
abbrev statusReg : RegIdx := 1#5

/-- GPR2, the Interrupt Return Register (10_state.md R24). -/
abbrev returnReg : RegIdx := 2#5

/-- GPR3, the Link Register (10_state.md R25). -/
abbrev linkReg : RegIdx := 3#5

end Sys2Proof
end

