-- ==== Sys2Proof/Syntax.lean ====
section
/-!
DEFINITION. The 45 instructions of 30_encoding.md R92, one constructor for each row of opcode_table.json, in the table's
order. Operands are the instruction's fields, in the order of the assembly form (30_encoding.md R101); an immediate or
an offset is the raw field, extended by the meaning (30_encoding.md R90).
-/

namespace Sys2Proof

/-- An instruction of the base set (30_encoding.md R92). -/
inductive Instr where
  -- RR type (30_encoding.md R81): destination, then the two sources
  | add (rd rs1 rs2 : RegIdx)
  | sub (rd rs1 rs2 : RegIdx)
  | mul (rd rs1 rs2 : RegIdx)
  | div (rd rs1 rs2 : RegIdx)
  | mod (rd rs1 rs2 : RegIdx)
  | divu (rd rs1 rs2 : RegIdx)
  | modu (rd rs1 rs2 : RegIdx)
  | and (rd rs1 rs2 : RegIdx)
  | or (rd rs1 rs2 : RegIdx)
  | xor (rd rs1 rs2 : RegIdx)
  | nand (rd rs1 rs2 : RegIdx)
  | nor (rd rs1 rs2 : RegIdx)
  | lls (rd rs1 rs2 : RegIdx)
  | lrs (rd rs1 rs2 : RegIdx)
  | ars (rd rs1 rs2 : RegIdx)
  | elt (rd rs1 rs2 : RegIdx)
  | eltu (rd rs1 rs2 : RegIdx)
  | eeq (rd rs1 rs2 : RegIdx)
  | eneq (rd rs1 rs2 : RegIdx)
  -- RI type (30_encoding.md R82): destination, source, immediate
  | addi (rd rs1 : RegIdx) (imm : Half)
  | subi (rd rs1 : RegIdx) (imm : Half)
  | andi (rd rs1 : RegIdx) (imm : Half)
  | ori (rd rs1 : RegIdx) (imm : Half)
  | xori (rd rs1 : RegIdx) (imm : Half)
  | llsi (rd rs1 : RegIdx) (imm : Half)
  | lrsi (rd rs1 : RegIdx) (imm : Half)
  | arsi (rd rs1 : RegIdx) (imm : Half)
  | lsoi (rd rs1 : RegIdx) (imm : Half)
  -- MA type (30_encoding.md R83, 44_load_store.md R176). Loads: destination, offset, base
  | lb (rd : RegIdx) (off : Half) (rs1 : RegIdx)
  | lh (rd : RegIdx) (off : Half) (rs1 : RegIdx)
  | lw (rd : RegIdx) (off : Half) (rs1 : RegIdx)
  -- Stores: offset, base (the `rd` field), data (the `rs1` field)
  | sb (off : Half) (rd rs1 : RegIdx)
  | sh (off : Half) (rd rs1 : RegIdx)
  | sw (off : Half) (rd rs1 : RegIdx)
  -- BR type (30_encoding.md R84)
  | brz (rs1 : RegIdx) (off : Half)
  | brnz (rs1 : RegIdx) (off : Half)
  -- JP type (30_encoding.md R85)
  | jp (off : BitVec 26)
  | jpl (off : BitVec 26)
  | trap (off : BitVec 26)
  -- JPR type (30_encoding.md R86)
  | jpr (rs1 : RegIdx)
  | jprl (rs1 : RegIdx)
  -- SP type (30_encoding.md R87)
  | nop
  | reti
  -- RT type (30_encoding.md R88)
  | exbw (rd rs1 : RegIdx)
  | exhw (rd rs1 : RegIdx)
deriving DecidableEq, Repr

/-- Why a word is no instruction (30_encoding.md R95, R97). -/
inductive DecodeError where
  /-- The word is in no row of the opcode map: an unallocated opcode, `func`, sub-opcode or sub-function (R97). -/
  | unallocated
  /-- The word selects a row whose reserved field it does not leave 0 (R95). -/
  | reservedField
  /-- There are not exactly four bytes (R80: every instruction is 32 bits long). -/
  | notFourBytes
deriving DecidableEq, Repr

end Sys2Proof
end

