-- ==== Sys2Proof/Decode.lean ====
section
/-!
DEFINITION. The decoder of 30_encoding.md R94, total on all words and on any bytes, refusing by name (R95, R97), and the
encoder written from the same tables (R81 to R88, R91, R93).
-/

namespace Sys2Proof

/-- Bits 5:0 of every instruction (30_encoding.md R80). -/
def opcodeOf (w : Word) : BitVec 6 := w.extractLsb' 0 6

/-- RR type: `func` in bits 16:6 selects (30_encoding.md R81, R93). -/
def decodeRR (w : Word) : Except DecodeError Instr :=
  let rs1 : RegIdx := w.extractLsb' 27 5
  let rs2 : RegIdx := w.extractLsb' 22 5
  let rd : RegIdx := w.extractLsb' 17 5
  match (w.extractLsb' 6 11 : BitVec 11) with
  | 0x000#11 => .ok (.add rd rs1 rs2)
  | 0x001#11 => .ok (.sub rd rs1 rs2)
  | 0x002#11 => .ok (.mul rd rs1 rs2)
  | 0x003#11 => .ok (.div rd rs1 rs2)
  | 0x004#11 => .ok (.mod rd rs1 rs2)
  | 0x005#11 => .ok (.divu rd rs1 rs2)
  | 0x006#11 => .ok (.modu rd rs1 rs2)
  | 0x100#11 => .ok (.and rd rs1 rs2)
  | 0x101#11 => .ok (.or rd rs1 rs2)
  | 0x102#11 => .ok (.xor rd rs1 rs2)
  | 0x103#11 => .ok (.nand rd rs1 rs2)
  | 0x104#11 => .ok (.nor rd rs1 rs2)
  | 0x200#11 => .ok (.lls rd rs1 rs2)
  | 0x201#11 => .ok (.lrs rd rs1 rs2)
  | 0x202#11 => .ok (.ars rd rs1 rs2)
  | 0x300#11 => .ok (.elt rd rs1 rs2)
  | 0x301#11 => .ok (.eltu rd rs1 rs2)
  | 0x302#11 => .ok (.eeq rd rs1 rs2)
  | 0x303#11 => .ok (.eneq rd rs1 rs2)
  | _ => .error .unallocated

/-- The SP and RT group, opcode `000000`: the sub-opcode in bits 10:6 selects, then the sub-function in bits 21:11 of
the RT type (30_encoding.md R87, R88, R94). Bits 31:11 of the SP type are reserved (R95). -/
def decodeSystem (w : Word) : Except DecodeError Instr :=
  match (w.extractLsb' 6 5 : BitVec 5) with
  | 0b00000#5 => if w.extractLsb' 11 21 = 0#21 then .ok .nop else .error .reservedField
  | 0b00001#5 => if w.extractLsb' 11 21 = 0#21 then .ok .reti else .error .reservedField
  | 0b00010#5 =>
    match (w.extractLsb' 11 11 : BitVec 11) with
    | 0#11 => .ok (.exbw (w.extractLsb' 27 5) (w.extractLsb' 22 5))
    | 1#11 => .ok (.exhw (w.extractLsb' 27 5) (w.extractLsb' 22 5))
    | _ => .error .unallocated
  | _ => .error .unallocated

/-- The decoding procedure (30_encoding.md R94, R91). -/
def decode (w : Word) : Except DecodeError Instr :=
  let imm : Half := w.extractLsb' 16 16
  let off26 : BitVec 26 := w.extractLsb' 6 26
  let hi : RegIdx := w.extractLsb' 11 5
  let lo : RegIdx := w.extractLsb' 6 5
  match opcodeOf w with
  | 0b000000#6 => decodeSystem w
  | 0b000001#6 => decodeRR w
  | 0b000010#6 => .ok (.lb lo imm hi)
  | 0b000011#6 => .ok (.lh lo imm hi)
  | 0b000100#6 => .ok (.lw lo imm hi)
  | 0b000101#6 => .ok (.sb imm lo hi)
  | 0b000110#6 => .ok (.sh imm lo hi)
  | 0b000111#6 => .ok (.sw imm lo hi)
  | 0b001001#6 => if lo = 0#5 then .ok (.brz hi imm) else .error .reservedField
  | 0b001010#6 => if lo = 0#5 then .ok (.brnz hi imm) else .error .reservedField
  | 0b001011#6 => .ok (.jp off26)
  | 0b001100#6 => .ok (.jpl off26)
  | 0b001101#6 => .ok (.trap off26)
  | 0b001110#6 => if w.extractLsb' 11 21 = 0#21 then .ok (.jpr lo) else .error .reservedField
  | 0b001111#6 => if w.extractLsb' 11 21 = 0#21 then .ok (.jprl lo) else .error .reservedField
  | 0b100000#6 => .ok (.addi lo hi imm)
  | 0b100001#6 => .ok (.subi lo hi imm)
  | 0b100010#6 => .ok (.andi lo hi imm)
  | 0b100011#6 => .ok (.ori lo hi imm)
  | 0b100100#6 => .ok (.xori lo hi imm)
  | 0b100101#6 => .ok (.llsi lo hi imm)
  | 0b100110#6 => .ok (.lrsi lo hi imm)
  | 0b100111#6 => .ok (.arsi lo hi imm)
  | 0b101000#6 => .ok (.lsoi lo hi imm)
  | _ => .error .unallocated

/-- The word of four bytes, the first at the lowest address: big endian (20_memory.md R55, 92_eei_decisions.md D32). -/
def wordOfBytes (b0 b1 b2 b3 : Byte) : Word := b0 ++ b1 ++ b2 ++ b3

/-- The four bytes of a word, from the lowest address on: big endian (20_memory.md R55). -/
def bytesOfWord (w : Word) : List Byte :=
  [w.extractLsb' 24 8, w.extractLsb' 16 8, w.extractLsb' 8 8, w.extractLsb' 0 8]

/-- The decoder on bytes as instruction memory holds them (30_encoding.md R80, R99; 92_eei_decisions.md D32). -/
def decodeBytes : List Byte → Except DecodeError Instr
  | [b0, b1, b2, b3] => decode (wordOfBytes b0 b1 b2 b3)
  | _ => .error .notFourBytes

/-- The instruction the decoder reads from an instruction whose low `nbits` bits are `w` and whose other bits are 0, laid
out as instruction memory holds it. -/
def decodeTableWord (nbits w : Nat) : Option Instr :=
  match decodeBytes (bytesOfWord (BitVec.ofNat 32 (w % 2 ^ nbits))) with
  | .ok i => some i
  | .error _ => none

/-- RR type (30_encoding.md R81). -/
def encodeRR (func : BitVec 11) (rd rs1 rs2 : RegIdx) : Word := rs1 ++ rs2 ++ rd ++ func ++ 0b000001#6

/-- RI and MA types (30_encoding.md R82, R83): bits 31:16, 15:11, 10:6, 5:0. -/
def encodeRI (op : BitVec 6) (imm : Half) (hi lo : RegIdx) : Word := imm ++ hi ++ lo ++ op

/-- JP type (30_encoding.md R85). -/
def encodeJP (op : BitVec 6) (off : BitVec 26) : Word := off ++ op

/-- JPR and SP types (30_encoding.md R86, R87): bits 31:11 are reserved, 0 in the canonical encoding (R95). -/
def encodeLow (op : BitVec 6) (lo : BitVec 5) : Word := 0#21 ++ lo ++ op

/-- RT type (30_encoding.md R88). -/
def encodeRT (func : BitVec 11) (rd rs1 : RegIdx) : Word := rd ++ rs1 ++ func ++ 0b00010#5 ++ 0b000000#6

/-- The canonical word of an instruction (30_encoding.md R92, R91, R93). -/
def encode : Instr → Word
  | .add rd rs1 rs2 => encodeRR 0x000 rd rs1 rs2
  | .sub rd rs1 rs2 => encodeRR 0x001 rd rs1 rs2
  | .mul rd rs1 rs2 => encodeRR 0x002 rd rs1 rs2
  | .div rd rs1 rs2 => encodeRR 0x003 rd rs1 rs2
  | .mod rd rs1 rs2 => encodeRR 0x004 rd rs1 rs2
  | .divu rd rs1 rs2 => encodeRR 0x005 rd rs1 rs2
  | .modu rd rs1 rs2 => encodeRR 0x006 rd rs1 rs2
  | .and rd rs1 rs2 => encodeRR 0x100 rd rs1 rs2
  | .or rd rs1 rs2 => encodeRR 0x101 rd rs1 rs2
  | .xor rd rs1 rs2 => encodeRR 0x102 rd rs1 rs2
  | .nand rd rs1 rs2 => encodeRR 0x103 rd rs1 rs2
  | .nor rd rs1 rs2 => encodeRR 0x104 rd rs1 rs2
  | .lls rd rs1 rs2 => encodeRR 0x200 rd rs1 rs2
  | .lrs rd rs1 rs2 => encodeRR 0x201 rd rs1 rs2
  | .ars rd rs1 rs2 => encodeRR 0x202 rd rs1 rs2
  | .elt rd rs1 rs2 => encodeRR 0x300 rd rs1 rs2
  | .eltu rd rs1 rs2 => encodeRR 0x301 rd rs1 rs2
  | .eeq rd rs1 rs2 => encodeRR 0x302 rd rs1 rs2
  | .eneq rd rs1 rs2 => encodeRR 0x303 rd rs1 rs2
  | .addi rd rs1 imm => encodeRI 0b100000 imm rs1 rd
  | .subi rd rs1 imm => encodeRI 0b100001 imm rs1 rd
  | .andi rd rs1 imm => encodeRI 0b100010 imm rs1 rd
  | .ori rd rs1 imm => encodeRI 0b100011 imm rs1 rd
  | .xori rd rs1 imm => encodeRI 0b100100 imm rs1 rd
  | .llsi rd rs1 imm => encodeRI 0b100101 imm rs1 rd
  | .lrsi rd rs1 imm => encodeRI 0b100110 imm rs1 rd
  | .arsi rd rs1 imm => encodeRI 0b100111 imm rs1 rd
  | .lsoi rd rs1 imm => encodeRI 0b101000 imm rs1 rd
  | .lb rd off rs1 => encodeRI 0b000010 off rs1 rd
  | .lh rd off rs1 => encodeRI 0b000011 off rs1 rd
  | .lw rd off rs1 => encodeRI 0b000100 off rs1 rd
  | .sb off rd rs1 => encodeRI 0b000101 off rs1 rd
  | .sh off rd rs1 => encodeRI 0b000110 off rs1 rd
  | .sw off rd rs1 => encodeRI 0b000111 off rs1 rd
  | .brz rs1 off => encodeRI 0b001001 off rs1 0
  | .brnz rs1 off => encodeRI 0b001010 off rs1 0
  | .jp off => encodeJP 0b001011 off
  | .jpl off => encodeJP 0b001100 off
  | .trap off => encodeJP 0b001101 off
  | .jpr rs1 => encodeLow 0b001110 rs1
  | .jprl rs1 => encodeLow 0b001111 rs1
  | .nop => encodeLow 0b000000 0b00000
  | .reti => encodeLow 0b000000 0b00001
  | .exbw rd rs1 => encodeRT 0 rd rs1
  | .exhw rd rs1 => encodeRT 1 rd rs1

end Sys2Proof
end

