-- ==== Sys2Proof/Config.lean ====
section
/-!
DEFINITION. What the platform or the implementation fixes and what the spec leaves free (00_scope.md R6, 10_state.md
R44, 92_eei_decisions.md). A free value is a constant WITHOUT A BODY: nothing can be proved of it, so a theorem about
the machine holds for every value of it.
-/

namespace Sys2Proof

/-- What an address range of the data space answers with (20_memory.md R67): plain memory, or a device. -/
inductive RegionKind where
  | ram
  | device
deriving DecidableEq, Repr

/-- One backed range of the data space, `base` up to but not including `base + size` (20_memory.md R67). -/
structure Region where
  base : Nat
  size : Nat
  kind : RegionKind
deriving DecidableEq, Repr

/-- Which of the two register reads of an instruction a value is drawn for (each use is a fresh draw:
93_implementation_defined.md, "any value"). -/
inductive ReadPort where
  | first
  | second
deriving DecidableEq, Repr

/-- The admissible values of `FETCH_MISALIGN` (92_eei_decisions.md D9). -/
inductive FetchMisalign where
  | refuse
  | roundDown
deriving DecidableEq, Repr, Inhabited

/-- The admissible values of `div_signed_neg` (40_arithmetic.md R118). -/
inductive DivRounding where
  | trunc
  | floor
deriving DecidableEq, Repr, Inhabited

/-- `FETCH_MISALIGN`: what a fetch from a pc that is not a multiple of 4 does (92_eei_decisions.md D9; log 19). -/
opaque Config.fetchMisalign : FetchMisalign

/-- `div_signed_neg`: how DIV rounds when an operand is negative (40_arithmetic.md R118; log 10). -/
opaque Config.divRounding : DivRounding

/-- The low 31 bits of `mod_signed_neg(a, b)`, an uninterpreted function whose one law, bit 31 = 0, is built in by the
width (40_arithmetic.md R121; log 11). -/
opaque Config.modSignedNeg : Word → Word → BitVec 31

/-- `draw(div_contingent)` at a tick (40_arithmetic.md R123; log 12). -/
opaque Config.divContingent : Nat → Word

/-- `draw(load_slot)` at a tick, one for each register read of the instruction (70_reset_and_hazards.md R280; log 13). -/
opaque Config.loadSlot : Nat → ReadPort → Word

/-- What a read of GPR1 yields inside the window of 70_reset_and_hazards.md R284 ("contingent"; log 36). -/
opaque Config.statusContingent : Nat → ReadPort → Word

/-- The flag bits that a read of GPR1 yields inside the window of 70_reset_and_hazards.md R285 (log 36). -/
opaque Config.flagsContingent : Nat → ReadPort → BitVec 4

/-- Whether the acceptance test of an external interrupt sees the new EIE (true) or the old one (false) inside the
window of 70_reset_and_hazards.md R284 (92_eei_decisions.md D7; log 18). -/
opaque Config.seesNewEie : Nat → Bool

/-- Whether a TRAP sees the new IIE (true) or the old one (false) inside the window of 70_reset_and_hazards.md R284
(92_eei_decisions.md D7; log 18). -/
opaque Config.seesNewIie : Nat → Bool

/-- How many boundaries a request that begins to stand at a tick waits before it is accepted: any finite number
(60_exceptions.md R243, 92_eei_decisions.md D24; log 26). -/
opaque Config.extDelay : Nat → Nat

/-- The byte a device puts on the bus at a tick, for a read of a data address (20_memory.md R63,
93_implementation_defined.md U34; log 6). -/
opaque Config.deviceByte : Nat → Nat → Byte

/-- `DMEM_DATA_OUT` of a byte or halfword store, whose lanes no source gives: a function of the address, the width in
bytes and the stored value (44_load_store.md R183, 91_not_in_source.md N26; log 32). -/
opaque Config.storeLanes : Word → Nat → Word → Word

end Sys2Proof
end

