-- ==== Sys2Proof/Machine/State.lean ====
section
/-!
DEFINITION. The state of the machine as plain data (10_state.md R20, R31, R41, R44), what can stop a step, and the state
after reset (10_state.md R43).
-/

namespace Sys2Proof.Machine

/-- The four ALU flags, bits 3:0 of the status register (10_state.md R31, R33). -/
structure AluFlags where
  c : Bool
  z : Bool
  s : Bool
  v : Bool
deriving DecidableEq, Repr

/-- The status register GPR1: its defined fields. Bits 31:16, 13:10 and 7:4 have no storage and read 0 (10_state.md R31,
R38). `mode` is "00" in kernel mode and "01" in user mode (R36). -/
structure StatusReg where
  flags : AluFlags
  /-- External interrupt permission, bit 8 (R34). -/
  eie : Bool
  /-- Internal interrupt permission, bit 9 (R35). -/
  iie : Bool
  /-- Execution mode, bits 15:14 (R36). -/
  mode : BitVec 2
deriving DecidableEq, Repr

/-- The three fields that `sr_old` keeps (10_state.md R41). -/
structure PermissionFields where
  eie : Bool
  iie : Bool
  mode : BitVec 2
deriving DecidableEq, Repr

/-- The tracker `since_sr_write`: instructions executed after the last one that had GPR1 as destination, `far` once it
is 2 or more (10_state.md R41). -/
inductive SinceSrWrite where
  | zero
  | one
  | far
deriving DecidableEq, Repr

/-- The tracker `since_flag_write`: instructions executed after the last ADD, ADDI, SUB or SUBI, `far` once it is 1 or
more (10_state.md R41). -/
inductive SinceFlagWrite where
  | zero
  | far
deriving DecidableEq, Repr

/-- The hidden hazard trackers (10_state.md R41). -/
structure Trackers where
  /-- The register loaded by the instruction executed just before, if it was a load to a register other than GPR0. -/
  loadShadow : Option RegIdx
  /-- How many NOPs were executed just before, saturating at 2. -/
  nopRun : Fin 3
  sinceSrWrite : SinceSrWrite
  sinceFlagWrite : SinceFlagWrite
  /-- EIE, IIE and MODE just before the last explicit write to GPR1. -/
  srOld : PermissionFields
  /-- The model's own: the hardware itself (TRAP entry, external entry, RETI) changed EIE, IIE and MODE after the last
  explicit write to GPR1; such a change is effective at once (70_reset_and_hazards.md R284; 60_exceptions.md R251; log
  18). -/
  srDirect : Bool
deriving DecidableEq, Repr

/-- One sample of the input ports, examined by one step (10_state.md R42; 60_exceptions.md R266). -/
structure Pins where
  reset : Bool
  extint : Bool
deriving DecidableEq, Repr

/-- The access modes of Table 4 (20_memory.md R61). -/
inductive BusMode where
  | signedByteRead
  | signedHalfRead
  | signedWordRead
  | unsignedByteRead
  | unsignedHalfRead
  | unsignedWordRead
  | byteWrite
  | halfWrite
  | wordWrite
deriving DecidableEq, Repr

/-- One data-bus transaction: its mode, the address on `DMEM_ADDR_OUT` and, for a write, the value on `DMEM_DATA_OUT`
(20_memory.md R61, R74; 44_load_store.md R183). -/
structure BusAccess where
  mode : BusMode
  addr : Word
  dataOut : Option Word
deriving DecidableEq, Repr

/-- Data memory: the RAM bytes that differ from what an unlisted address reads as, addresses strictly rising. -/
abbrev Memory := List Host.Cell

/-- Instruction memory: the bytes the platform backs, addresses strictly rising; an address that is not listed is not
backed (20_memory.md R66). -/
abbrev InstrMemory := List Host.Cell

/-- The machine (10_state.md R20), with the parameters and the inputs of its step (R44). -/
structure State where
  /-- GPR2 .. GPR31 (10_state.md R21); GPR0 has no storage (R22) and GPR1 is `sr` (R23). -/
  gpr : Vector Word 30
  /-- The status register, GPR1 (10_state.md R31). -/
  sr : StatusReg
  /-- The program counter (10_state.md R29). -/
  pc : Word
  /-- The RAM of the data space (20_memory.md R52). -/
  dmem : Memory
  /-- The instruction memory, constant for a run (20_memory.md R66, R73). -/
  imem : InstrMemory
  /-- Which data addresses are RAM or a device; the others are not backed (20_memory.md R67). -/
  map : List Region
  /-- The hazard trackers (10_state.md R41). -/
  trk : Trackers
  /-- The samples of `RESET` and `EXTINT_IN` still to come, one a step; both are 0 when none is left (log 25). -/
  pins : List Pins
  /-- The model's own: boundaries that a standing external request still waits (60_exceptions.md R243; log 26). -/
  extWait : Option Nat
  /-- The event `EXTCATCH_OUT` was emitted by the last step (60_exceptions.md R244; log 33). -/
  extcatch : Bool
  /-- The data-bus transaction of the last step (44_load_store.md R183; log 32). -/
  bus : Option BusAccess
  /-- The model's own: the index of the free values of this step (log 31). -/
  tick : Nat
deriving DecidableEq, Repr

/-- A stuck run: the step needs an answer that the platform does not give (92_eei_decisions.md, "not admitted"). -/
inductive Fault where
  /-- Raised by `fetch`: the platform holds no word at the fetch address (20_memory.md R66, D22). Safe: nothing is
  assumed about the core's reaction. -/
  | fetchNotBacked
  /-- Raised by loads and stores: the access touches a data address the platform does not back (20_memory.md R67, D22).
  Safe: nothing is assumed about the core's reaction. -/
  | dataNotBacked
deriving DecidableEq, Repr

/-- A step to which the spec gives no next state (92_eei_decisions.md, "refuse"). -/
inductive Refusal where
  /-- An arm of `exec` without a meaning. Safe. -/
  | notModelled (mnemonic : String)
  /-- Raised by `step`: the word is in no row of the opcode map (30_encoding.md R97, D11). Safe. -/
  | unallocatedWord
  /-- Raised by `step`: a reserved field of the word is not 0 (30_encoding.md R95, D10). Safe. -/
  | reservedBits
  /-- Raised by `fetch`: pc is not a multiple of 4 and FETCH_MISALIGN is `refuse` (70_reset_and_hazards.md R286, D9).
  Safe. -/
  | misalignedFetch
  /-- Raised by an instruction that names GPR1 when the two instructions before it are not both NOP
  (70_reset_and_hazards.md R283, D31). Safe. -/
  | statusWithoutTwoNops
  /-- Raised by a kernel-mode write of GPR1 whose value sets bits 31:16, 13:10 or 7:4 (10_state.md R38, D3). Safe. -/
  | statusUndefinedBits
  /-- Raised by a kernel-mode write of GPR1 whose value has MODE "10" or "11" (10_state.md R36, D5). Safe. -/
  | statusUndefinedMode
  /-- Raised by a TRAP that would be taken with bit 25 of its offset set (46_system.md R221, D17). Safe. -/
  | trapOffsetExtension
deriving DecidableEq, Repr

/-- What a step or an instruction ends in. -/
abbrev Result := Host.Outcome State Fault Refusal

/-- All flags 0, both interrupts prohibited, kernel mode (10_state.md R43). -/
def StatusReg.cleared : StatusReg :=
  { flags := { c := false, z := false, s := false, v := false }, eie := false, iie := false, mode := 0b00#2 }

/-- The trackers after reset (10_state.md R41, R43). -/
def Trackers.cleared : Trackers :=
  { loadShadow := none, nopRun := 0, sinceSrWrite := .far, sinceFlagWrite := .far,
    srOld := { eie := false, iie := false, mode := 0b00#2 }, srDirect := false }

/-- The reset vector (10_state.md R43, D28). -/
abbrev resetVector : Word := 0x0FFE0000#32

/-- The platform map that `State.reset` has: one RAM over the whole data space (DESIGN CHOICE, unsafe: log 4). -/
def Region.wholeSpace : Region := { base := 0, size := 2 ^ 32, kind := .ram }

/-- The machine right after reset (10_state.md R43, 70_reset_and_hazards.md R271), with nothing listed in either memory
and no input sample to come. -/
def State.reset : State :=
  { gpr := Vector.replicate 30 0#32
    sr := StatusReg.cleared
    pc := resetVector
    dmem := []
    imem := []
    map := [Region.wholeSpace]
    trk := Trackers.cleared
    pins := []
    extWait := none
    extcatch := false
    bus := none
    tick := 0 }

end Sys2Proof.Machine
end

