-- ==== Sys2Proof/Machine/Flags.lean ====
section
/-!
DEFINITION. The flag computations of addition and subtraction (10_state.md R33), the only ones the instruction set has
(R32), and the places of the flags in GPR1 (R31).
-/

namespace Sys2Proof.Machine

/-- Z and S of a 32-bit result: Z is "result is 0" (10_state.md R33, D2), S is its bit 31. -/
def flagZ (r : Word) : Bool := r == 0#32

/-- S of a 32-bit result (10_state.md R33). -/
def flagS (r : Word) : Bool := r[31]

/-- The flags of `a + b` with 32-bit result `r` (10_state.md R33). -/
def flagsAdd (a b r : Word) : AluFlags :=
  { c := decide (2 ^ 32 ≤ a.toNat + b.toNat)
    z := flagZ r
    s := flagS r
    v := (a[31] == b[31]) && (r[31] != a[31]) }

/-- The flags of `a - b` with 32-bit result `r`; C = 1 means that no borrow occurred (10_state.md R33). -/
def flagsSub (a b r : Word) : AluFlags :=
  { c := decide (b.toNat ≤ a.toNat)
    z := flagZ r
    s := flagS r
    v := (a[31] != b[31]) && (r[31] != a[31]) }

/-- Bits 3:0 of GPR1: C, Z, S, V from bit 3 down (10_state.md R31, D1; log 7). -/
def flagBits (f : AluFlags) : BitVec 4 :=
  BitVec.ofBool f.c ++ BitVec.ofBool f.z ++ BitVec.ofBool f.s ++ BitVec.ofBool f.v

/-- GPR1 as 32 bits, with bits 3:0 given: the fields at the places of 10_state.md R31, every undefined bit 0 (R38). -/
def statusWord (sr : StatusReg) (low : BitVec 4) : Word :=
  0#16 ++ sr.mode ++ 0#4 ++ BitVec.ofBool sr.iie ++ BitVec.ofBool sr.eie ++ 0#4 ++ low

/-- `SR_value`, what GPR1 holds (10_state.md R31). -/
def statusValue (sr : StatusReg) : Word := statusWord sr (flagBits sr.flags)

end Sys2Proof.Machine
end

