-- ==== Sys2Proof/Machine/Ops.lean ====
section
/-!
DEFINITION. The named operations over memory, registers, the hazard trackers and the interrupts, which the meanings of
the instructions and the step are made of (10_state.md, 20_memory.md, 60_exceptions.md, 70_reset_and_hazards.md).
-/

namespace Sys2Proof.Machine

/-! ## Byte memories -/

/-- The byte listed at an address. -/
def lookupCell : List Host.Cell → Nat → Option Byte
  | [], _ => none
  | (k, b) :: rest, a => if k = a then some b else lookupCell rest a

/-- List `b` at address `a`, in place of what was listed there, keeping the addresses rising. -/
def insertCell : List Host.Cell → Nat → Byte → List Host.Cell
  | [], a, b => [(a, b)]
  | (k, c) :: rest, a, b =>
    if a < k then (a, b) :: (k, c) :: rest
    else if a = k then (a, b) :: rest
    else (k, c) :: insertCell rest a b

/-- List nothing at address `a`. -/
def eraseCell : List Host.Cell → Nat → List Host.Cell
  | [], _ => []
  | (k, c) :: rest, a => if k = a then eraseCell rest a else (k, c) :: eraseCell rest a

/-- The addresses rise strictly and lie in `lo` .. `2^32 - 1` (20_memory.md R51, R52: 32-bit byte addresses). -/
def risingFrom : Nat → List Host.Cell → Bool
  | _, [] => true
  | lo, (k, _) :: rest => decide (lo ≤ k) && decide (k < 2 ^ 32) && risingFrom (k + 1) rest

/-- What an address of data memory reads as when nothing is listed there: 0 (the spec leaves the content of data memory
after reset open, 10_state.md R43; DESIGN CHOICE, unsafe: log 3). -/
def Memory.unlisted : Byte := 0#8

/-- The canonical form of data memory: addresses strictly rising inside the 32-bit space, no entry equal to what an
unlisted address reads as. -/
def Memory.wf (m : Memory) : Bool := risingFrom 0 m && m.all fun c => c.2 != Memory.unlisted

/-- The canonical form of instruction memory: addresses strictly rising inside the 32-bit space. -/
def InstrMemory.wf (m : InstrMemory) : Bool := risingFrom 0 m

/-- The byte of data memory at an address. -/
def Memory.read (m : Memory) (a : Nat) : Byte := (lookupCell m a).getD Memory.unlisted

/-- Data memory with byte `b` at address `a`. -/
def Memory.write (m : Memory) (a : Nat) (b : Byte) : Memory :=
  if b = Memory.unlisted then eraseCell m a else insertCell m a b

/-- Instruction memory with the bytes `bs` from address `a` on: the platform's load (20_memory.md R66, R73). -/
def InstrMemory.load (m : InstrMemory) : Nat → List Byte → InstrMemory
  | _, [] => m
  | a, b :: bs => InstrMemory.load (insertCell m a b) (a + 1) bs

/-! ## The data space -/

/-- What the platform backs at a data address: the first range that holds it (20_memory.md R67; log 40). -/
def regionAt : List Region → Nat → Option RegionKind
  | [], _ => none
  | r :: rest, a => if r.base ≤ a ∧ a < r.base + r.size then some r.kind else regionAt rest a

/-- The byte a load takes at a data address: the RAM byte, or the device's byte of this step, or none where the platform
backs nothing (20_memory.md R58, R63, R67). -/
def dataByte (s : State) (a : Nat) : Option Byte :=
  match regionAt s.map a with
  | some .ram => some (s.dmem.read a)
  | some .device => some (Config.deviceByte s.tick a)
  | none => none

/-- Data memory after one byte of a store: RAM takes it, a device's own state is no part of the machine (20_memory.md
R59, R63). -/
def storeCell (map : List Region) (m : Memory) (a : Nat) (b : Byte) : Memory :=
  match regionAt map a with
  | some .ram => m.write a b
  | _ => m

/-- Data memory after the bytes of a store, from address `a` on (20_memory.md R59). -/
def storeCells (map : List Region) : Memory → Nat → List Byte → Memory
  | m, _, [] => m
  | m, a, b :: bs => storeCells map (storeCell map m a b) (a + 1) bs

/-- The state after the bytes of a store, from address `a` on (20_memory.md R59). -/
def State.storeBytes (s : State) (a : Nat) (bs : List Byte) : State :=
  { s with dmem := storeCells s.map s.dmem a bs }

/-- The platform backs the `n` addresses from `a` on (20_memory.md R58, R59). -/
def dataBacked (s : State) : Nat → Nat → Bool
  | _, 0 => true
  | a, n + 1 => (regionAt s.map a).isSome && dataBacked s (a + 1) n

/-- `MemRead(EA, 1)` at the aligned address (20_memory.md R58). -/
def memRead1 (s : State) (a : Word) : Option Byte := dataByte s a.toNat

/-- `MemRead(EA, 2)` at the aligned address, big endian (20_memory.md R55, R58). -/
def memRead2 (s : State) (a : Word) : Option Half :=
  match dataByte s a.toNat, dataByte s (a.toNat + 1) with
  | some b0, some b1 => some (b0 ++ b1)
  | _, _ => none

/-- `MemRead(EA, 4)` at the aligned address, big endian (20_memory.md R55, R58). -/
def memRead4 (s : State) (a : Word) : Option Word :=
  match dataByte s a.toNat, dataByte s (a.toNat + 1), dataByte s (a.toNat + 2), dataByte s (a.toNat + 3) with
  | some b0, some b1, some b2, some b3 => some (wordOfBytes b0 b1 b2 b3)
  | _, _, _, _ => none

/-- `MemWrite` of the bytes `bs` at the aligned address; none where the platform does not back all of them
(20_memory.md R59, R67). -/
def memWrite (s : State) (a : Word) (bs : List Byte) : Option State :=
  if dataBacked s a.toNat bs.length then some (s.storeBytes a.toNat bs) else none

/-- `align(EA, n)` for n = 2: the low address bit is rounded down (20_memory.md R56). -/
def align2 (ea : Word) : Word := ea &&& 0xFFFFFFFE#32

/-- `align(EA, n)` for n = 4: the two low address bits are rounded down (20_memory.md R56). -/
def align4 (ea : Word) : Word := ea &&& 0xFFFFFFFC#32

/-- `DMEM_RW_OUT` of an access mode: 1 is a write (20_memory.md R61). -/
def busRw : BusMode → BitVec 1
  | .byteWrite | .halfWrite | .wordWrite => 1#1
  | .signedByteRead | .signedHalfRead | .signedWordRead => 0#1
  | .unsignedByteRead | .unsignedHalfRead | .unsignedWordRead => 0#1

/-- `DMEM_WMODE_OUT` of an access mode, the width (20_memory.md R61). -/
def busWmode : BusMode → BitVec 2
  | .signedByteRead | .unsignedByteRead | .byteWrite => 0b00#2
  | .signedHalfRead | .unsignedHalfRead | .halfWrite => 0b01#2
  | .signedWordRead | .unsignedWordRead | .wordWrite => 0b11#2

/-- `DMEM_EMODE_OUT` of an access mode, the sign extension bit (20_memory.md R61). -/
def busEmode : BusMode → BitVec 1
  | .signedByteRead | .signedHalfRead | .signedWordRead => 1#1
  | .unsignedByteRead | .unsignedHalfRead | .unsignedWordRead => 0#1
  | .byteWrite | .halfWrite | .wordWrite => 0#1

/-- Record the data-bus transaction of a load (44_load_store.md R183). -/
def State.withRead (s : State) (mode : BusMode) (a : Word) : State :=
  { s with bus := some { mode := mode, addr := a, dataOut := none } }

/-- Record the data-bus transaction of a store (44_load_store.md R183). -/
def State.withWrite (s : State) (mode : BusMode) (a v : Word) : State :=
  { s with bus := some { mode := mode, addr := a, dataOut := some v } }

/-! ## Registers -/

/-- What register `i` holds, hazards aside (10_state.md R27). -/
def State.reg (s : State) (i : RegIdx) : Word :=
  if i = zeroReg then 0#32
  else if i = statusReg then statusValue s.sr
  else s.gpr[i.toNat - 2]

/-- General register `i`, 2 .. 31, set to `v` (10_state.md R28); for i = 0 and i = 1 nothing is stored. -/
def State.setGpr (s : State) (i : RegIdx) (v : Word) : State :=
  { s with gpr := if i = zeroReg ∨ i = statusReg then s.gpr else s.gpr.set (i.toNat - 2) v }

/-- The ALU flags set to `f` (10_state.md R32). -/
def State.setFlags (s : State) (f : AluFlags) : State := { s with sr := { s.sr with flags := f } }

/-- EIE, IIE and MODE set, the flags kept (10_state.md R37, R39). -/
def State.setPermissions (s : State) (eie iie : Bool) (mode : BitVec 2) : State :=
  { s with sr := { s.sr with eie := eie, iie := iie, mode := mode } }

/-- A read of GPR1 by an instruction: its value, contingent inside the windows of 70_reset_and_hazards.md R284 and R285
(10_state.md R27; log 36). -/
def readStatus (s : State) (port : ReadPort) : Word :=
  match s.trk.sinceSrWrite with
  | .zero | .one => Config.statusContingent s.tick port
  | .far =>
    match s.trk.sinceFlagWrite with
    | .zero => statusWord s.sr (Config.flagsContingent s.tick port)
    | .far => statusValue s.sr

/-- `x[i]`, the register read function (10_state.md R27): a read of the register loaded by the instruction just before
is a draw (70_reset_and_hazards.md R280). -/
def readReg (s : State) (port : ReadPort) (i : RegIdx) : Word :=
  if i = zeroReg then 0#32
  else if s.trk.loadShadow = some i then Config.loadSlot s.tick port
  else if i = statusReg then readStatus s port
  else s.reg i

/-- The bits 31:16, 13:10 and 7:4 of GPR1, which no source defines (10_state.md R38). -/
def statusUndefinedMask : Word := 0xFFFF3CF0#32

/-- The write filter of GPR1 (10_state.md R37): in kernel mode bits 8, 9 and 15:14 are taken and undefined bits or modes
are refused (R36, R38), in user mode nothing is written. The flags are never written. -/
def writeStatus (v : Word) (s : State) : Result :=
  if s.sr.mode = 0b00#2 then
    if v &&& statusUndefinedMask = 0#32 then
      if v[15] then .refused .statusUndefinedMode
      else .next (s.setPermissions v[8] v[9] (v.extractLsb' 14 2))
    else .refused .statusUndefinedBits
  else .next s

/-- `x[i] <- v`, the register write function (10_state.md R28). -/
def writeReg (i : RegIdx) (v : Word) (s : State) : Result :=
  if i = statusReg then writeStatus v s else .next (s.setGpr i v)

/-! ## The program counter -/

/-- The address of the next instruction in memory, modulo 2^32 (10_state.md R30, D8). -/
def State.nextPc (s : State) : Word := s.pc + 4#32

/-- Sequential advance (10_state.md R30). -/
def State.advance (s : State) : State := { s with pc := s.nextPc }

/-- Control transfer to `target`. -/
def State.jump (s : State) (target : Word) : State := { s with pc := target }

/-! ## The hazard trackers -/

/-- What the trackers have to know of an executed instruction (10_state.md R41). -/
inductive Executed where
  /-- NOP. -/
  | nop
  /-- LB, LH, LW with destination `rd`. -/
  | load (rd : RegIdx)
  /-- ADD, ADDI, SUB, SUBI with destination `rd`. -/
  | flagged (rd : RegIdx)
  /-- Another instruction with a destination operand `rd`. -/
  | dest (rd : RegIdx)
  /-- An instruction without a destination operand. -/
  | plain
deriving DecidableEq, Repr

/-- The destination operand of an executed instruction. -/
def executedDest : Executed → Option RegIdx
  | .nop => none
  | .load rd => some rd
  | .flagged rd => some rd
  | .dest rd => some rd
  | .plain => none

/-- `load_shadow` after an instruction: the destination of a load, if it is not GPR0 (10_state.md R41). -/
def loadShadowAfter : Executed → Option RegIdx
  | .load rd => if rd = zeroReg then none else some rd
  | _ => none

/-- `nop_run` after an instruction (10_state.md R41; 46_system.md R216). -/
def nopRunAfter (k : Executed) (n : Fin 3) : Fin 3 :=
  match k with
  | .nop => if n = 0 then 1 else 2
  | _ => 0

/-- One more instruction since the last write of GPR1 (10_state.md R41). -/
def sinceSrWriteNext : SinceSrWrite → SinceSrWrite
  | .zero => .one
  | .one => .far
  | .far => .far

/-- `since_flag_write` after an instruction (10_state.md R41). -/
def sinceFlagWriteAfter : Executed → SinceFlagWrite
  | .flagged _ => .zero
  | _ => .far

/-- The trackers after an executed instruction, `sr` being the status register before it (10_state.md R41): an
instruction with GPR1 as destination opens the window of 70_reset_and_hazards.md R284. -/
def Trackers.after (t : Trackers) (k : Executed) (sr : StatusReg) : Trackers :=
  if executedDest k = some statusReg then
    { loadShadow := loadShadowAfter k, nopRun := nopRunAfter k t.nopRun, sinceSrWrite := .zero
      sinceFlagWrite := sinceFlagWriteAfter k
      srOld := { eie := sr.eie, iie := sr.iie, mode := sr.mode }, srDirect := false }
  else
    { loadShadow := loadShadowAfter k, nopRun := nopRunAfter k t.nopRun
      sinceSrWrite := sinceSrWriteNext t.sinceSrWrite, sinceFlagWrite := sinceFlagWriteAfter k
      srOld := t.srOld, srDirect := t.srDirect }

/-- Update the trackers for an instruction executed in `s`. -/
def State.track (s : State) (k : Executed) : State := { s with trk := s.trk.after k s.sr }

/-- The two-NOP rule (70_reset_and_hazards.md R283): an instruction one of whose register operands is GPR1 runs only
when the two instructions executed before it were both NOP. -/
def guarded (named : List RegIdx) (s : State) (body : Result) : Result :=
  if named.contains statusReg && s.trk.nopRun != 2 then .refused .statusWithoutTwoNops else body

/-- The end of an instruction with destination `rd` and result `v`: trackers, pc, register (10_state.md R28, R30, R41). -/
def finish (k : Executed) (rd : RegIdx) (v : Word) (s : State) : Result := writeReg rd v (s.track k).advance

/-! ## Interrupts -/

/-- The first address of the TRAP vectors (46_system.md R221). -/
def trapBase : Word := 0x0FFE0800#32

/-- The external interrupt vector (60_exceptions.md R236, R244). -/
def extVector : Word := 0x0FFE0400#32

/-- What every interrupt entry does (60_exceptions.md R240): pc to GPR2, EIE and IIE cleared, kernel mode, pc at the
entry address; the flags and everything else are kept. The change is effective at once (70_reset_and_hazards.md R284). -/
def enterInterrupt (entry : Word) (s : State) : State :=
  { ((s.setGpr returnReg s.pc).setPermissions false false 0b00#2).jump entry with trk := { s.trk with srDirect := true } }

/-- The return from an interrupt (46_system.md R218, 60_exceptions.md R248): EIE and IIE set, user mode, pc at `target`,
the flags and GPR2 kept. -/
def returnFromInterrupt (target : Word) (s : State) : State :=
  { (s.setPermissions true true 0b01#2).jump target with trk := { s.trk with srDirect := true } }

/-- `raise Trap(offset)` (60_exceptions.md R241). -/
def raiseTrap (off : BitVec 26) (s : State) : State := enterInterrupt (trapBase + off.setWidth 32) s

/-- `raise ExtInt` (60_exceptions.md R244): an entry that is not an instruction, so of the trackers only `nop_run`
changes (10_state.md R41, D26); the event `EXTCATCH_OUT` is emitted. -/
def raiseExtInt (s : State) : State :=
  let t := enterInterrupt extVector s
  { t with trk := { t.trk with nopRun := 0 }, extcatch := true }

/-- The step is one of the two after an explicit write of GPR1 and no hardware change came between
(70_reset_and_hazards.md R284; log 18). -/
def inStatusWindow (s : State) : Bool := s.trk.sinceSrWrite != .far && !s.trk.srDirect

/-- The IIE that a TRAP tests: in the window the old or the new one (70_reset_and_hazards.md R284, R286). -/
def iieTested (s : State) : Bool :=
  if inStatusWindow s then (if Config.seesNewIie s.tick then s.sr.iie else s.trk.srOld.iie) else s.sr.iie

/-- The EIE that the acceptance of an external interrupt tests: in the window the old or the new one
(70_reset_and_hazards.md R284, R286). -/
def eieTested (s : State) : Bool :=
  if inStatusWindow s then (if Config.seesNewEie s.tick then s.sr.eie else s.trk.srOld.eie) else s.sr.eie

/-- The input levels of the coming step: both 0 when no sample is left (log 25). -/
def State.pinsNow (s : State) : Pins :=
  match s.pins with
  | [] => { reset := false, extint := false }
  | p :: _ => p

/-- The state as the coming step sees it: the sample is taken, the free values get a new index, the outputs of the step
before are gone. -/
def State.openStep (s : State) : State :=
  { s with pins := s.pins.tail, extcatch := false, bus := none, tick := s.tick + 1 }

/-- The core's reset (70_reset_and_hazards.md R270, R272): registers, pc and trackers at their reset values; memories,
the platform's map and its inputs stay. -/
def State.coreReset (s : State) : State :=
  { s with gpr := State.reset.gpr, sr := State.reset.sr, pc := State.reset.pc, trk := State.reset.trk, extWait := none }

/-- The acceptance condition at a boundary, `RESET` being 0 (60_exceptions.md R243). -/
def extRequested (p : Pins) (s : State) : Bool := p.extint && eieTested s

/-- How many boundaries the standing request still waits: drawn when it begins to stand (60_exceptions.md R243, D24). -/
def extWaitNow (s : State) : Nat :=
  match s.extWait with
  | some n => n
  | none => Config.extDelay s.tick

/-- What a boundary between two instructions leads to (60_exceptions.md R266). -/
inductive Boundary where
  /-- The external interrupt is taken: this is the state after it. -/
  | taken (s : State)
  /-- The instruction at pc executes, in this state. -/
  | proceed (s : State)

/-- The boundary (60_exceptions.md R243, R266): a request that stands is taken when its wait is over; a request that
does not stand leaves no trace. -/
def atBoundary (p : Pins) (s : State) : Boundary :=
  if extRequested p s then
    match extWaitNow s with
    | 0 => .taken (raiseExtInt { s with extWait := none })
    | n + 1 => .proceed { s with extWait := some n }
  else .proceed { s with extWait := none }

/-! ## Fetch -/

/-- What a fetch ends in. -/
inductive Fetched where
  | word (w : Word)
  | fault (f : Fault)
  | refused (r : Refusal)
deriving DecidableEq, Repr

/-- The four bytes of instruction memory from address `a` on, as one big-endian word (20_memory.md R55, R60; D32). -/
def instrWordAt (m : InstrMemory) (a : Nat) : Option Word :=
  match lookupCell m a, lookupCell m (a + 1), lookupCell m (a + 2), lookupCell m (a + 3) with
  | some b0, some b1, some b2, some b3 => some (wordOfBytes b0 b1 b2 b3)
  | _, _, _, _ => none

/-- The word-aligned address at or below pc. -/
def fetchAddress (pc : Word) : Word := align4 pc

/-- `Fetch(pc)` (20_memory.md R60, R66): a pc that is not a multiple of 4 is the affair of `FETCH_MISALIGN`
(92_eei_decisions.md D9); a word the platform does not back is not admitted. -/
def fetch (s : State) : Fetched :=
  if s.pc &&& 3#32 ≠ 0#32 ∧ Config.fetchMisalign = .refuse then .refused .misalignedFetch
  else
    match instrWordAt s.imem (fetchAddress s.pc).toNat with
    | some w => .word w
    | none => .fault .fetchNotBacked

/-- The refusal of a word that is no instruction (30_encoding.md R95, R97). -/
def refusalOf : DecodeError → Refusal
  | .unallocated => .unallocatedWord
  | .reservedField => .reservedBits
  | .notFourBytes => .unallocatedWord

end Sys2Proof.Machine
end

