-- ==== Sys2Proof/Machine/Operands.lean ====
section
/-!
DEFINITION. The operand forms: immediates and offsets (30_encoding.md R90), shift counts (42_shift.md R153), effective
addresses (20_memory.md R57) and branch targets (45_control_transfer.md R195).
-/

namespace Sys2Proof.Machine

/-- `sext_16`: ADDI, SUBI, loads, stores, branches (30_encoding.md R90). -/
def sext16 (v : Half) : Word := v.signExtend 32

/-- `zext_16`: ANDI, ORI, XORI, LSOI (30_encoding.md R90). -/
def zext16 (v : Half) : Word := v.setWidth 32

/-- `sext_26`: JP, JPL (30_encoding.md R90). -/
def sext26 (v : BitVec 26) : Word := v.signExtend 32

/-- `sext_8`: LB, EXBW (44_load_store.md R177, 43_compare_extend.md R166). -/
def sext8 (v : Byte) : Word := v.signExtend 32

/-- The shift count of a register operand: its low five bits (42_shift.md R153). -/
def shiftCount (v : Word) : Nat := (v.extractLsb' 0 5).toNat

/-- The shift count of an immediate: its low five bits, instruction bits 20:16 (42_shift.md R153, 30_encoding.md R90). -/
def shiftCountImm (v : Half) : Nat := (v.extractLsb' 0 5).toNat

/-- The effective address of a load or store, modulo 2^32 (20_memory.md R57, D21). -/
def effectiveAddress (base : Word) (off : Half) : Word := base + sext16 off

/-- The target of a branch: relative to the next instruction (45_control_transfer.md R195, R196). -/
def branchTarget (s : State) (off : Half) : Word := s.nextPc + sext16 off

/-- The target of JP and JPL: relative to the next instruction (45_control_transfer.md R200). -/
def jumpTarget (s : State) (off : BitVec 26) : Word := s.nextPc + sext26 off

/-- The truth value of a comparison as a register value (43_compare_extend.md R160). -/
def truthWord (b : Bool) : Word := if b then 1#32 else 0#32

end Sys2Proof.Machine
end

