-- ==== Sys2Proof/Machine/Arithmetic.lean ====
section
/-!
DEFINITION. Integer arithmetic (40_arithmetic.md R110 to R125): ADD ADDI SUB SUBI MUL DIV DIVU MOD MODU.
-/

namespace Sys2Proof.Machine

/-- The end of an addition: the flags of `a + b`, then the result to `rd` (40_arithmetic.md R111, R112). -/
def finishAdd (rd : RegIdx) (a b : Word) (s : State) : Result :=
  finish (.flagged rd) rd (a + b) (s.setFlags (flagsAdd a b (a + b)))

/-- The end of a subtraction: the flags of `a - b`, then the result to `rd` (40_arithmetic.md R113, R114). -/
def finishSub (rd : RegIdx) (a b : Word) (s : State) : Result :=
  finish (.flagged rd) rd (a - b) (s.setFlags (flagsSub a b (a - b)))

/-- The operands whose signed quotient is contingent: divisor 0, and the overflow pair (40_arithmetic.md R117, R123). -/
def divContingentPair (a b : Word) : Bool := b == 0#32 || (a == 0x80000000#32 && b == 0xFFFFFFFF#32)

/-- `div_signed_neg(a, b)` (40_arithmetic.md R118): the rounding is a parameter. -/
def divSignedNeg (a b : Word) : Word :=
  match Config.divRounding with
  | .trunc => BitVec.ofInt 32 (a.toInt.tdiv b.toInt)
  | .floor => BitVec.ofInt 32 (a.toInt.fdiv b.toInt)

/-- `mod_signed_neg(a, b)` (40_arithmetic.md R121): any function whose result has bit 31 = 0. -/
def modSignedNeg (a b : Word) : Word := (Config.modSignedNeg a b).setWidth 32

/-- The value DIV writes at a tick (40_arithmetic.md R117). -/
def divSigned (tick : Nat) (a b : Word) : Word :=
  if divContingentPair a b then Config.divContingent tick
  else if a[31] || b[31] then divSignedNeg a b
  else BitVec.ofNat 32 (a.toNat / b.toNat)

/-- The value MOD writes at a tick (40_arithmetic.md R120). -/
def modSigned (tick : Nat) (a b : Word) : Word :=
  if divContingentPair a b then Config.divContingent tick
  else if a[31] || b[31] then modSignedNeg a b
  else BitVec.ofNat 32 (a.toNat % b.toNat)

/-- The value DIVU writes at a tick (40_arithmetic.md R119, D15). -/
def divUnsigned (tick : Nat) (a b : Word) : Word :=
  if b = 0#32 then Config.divContingent tick else BitVec.ofNat 32 (a.toNat / b.toNat)

/-- The value MODU writes at a tick (40_arithmetic.md R122, D15). -/
def modUnsigned (tick : Nat) (a b : Word) : Word :=
  if b = 0#32 then Config.divContingent tick else BitVec.ofNat 32 (a.toNat % b.toNat)

/-- ADD (40_arithmetic.md R111). -/
def execAdd (rd rs1 rs2 : RegIdx) (s : State) : Result :=
  guarded [rs1, rs2, rd] s (finishAdd rd (readReg s .first rs1) (readReg s .second rs2) s)

/-- ADDI: the immediate is sign-extended (40_arithmetic.md R112). -/
def execAddi (rd rs1 : RegIdx) (imm : Half) (s : State) : Result :=
  guarded [rs1, rd] s (finishAdd rd (readReg s .first rs1) (sext16 imm) s)

/-- SUB: minuend rs1, subtrahend rs2 (40_arithmetic.md R113). -/
def execSub (rd rs1 rs2 : RegIdx) (s : State) : Result :=
  guarded [rs1, rs2, rd] s (finishSub rd (readReg s .first rs1) (readReg s .second rs2) s)

/-- SUBI: the immediate is sign-extended and subtracted (40_arithmetic.md R114). -/
def execSubi (rd rs1 : RegIdx) (imm : Half) (s : State) : Result :=
  guarded [rs1, rd] s (finishSub rd (readReg s .first rs1) (sext16 imm) s)

/-- MUL: the low 32 bits of the product (40_arithmetic.md R115, D12). -/
def execMul (rd rs1 rs2 : RegIdx) (s : State) : Result :=
  guarded [rs1, rs2, rd] s (finish (.dest rd) rd (readReg s .first rs1 * readReg s .second rs2) s)

/-- DIV: signed quotient (40_arithmetic.md R117). -/
def execDiv (rd rs1 rs2 : RegIdx) (s : State) : Result :=
  guarded [rs1, rs2, rd] s
    (finish (.dest rd) rd (divSigned s.tick (readReg s .first rs1) (readReg s .second rs2)) s)

/-- MOD: signed remainder (40_arithmetic.md R120). -/
def execMod (rd rs1 rs2 : RegIdx) (s : State) : Result :=
  guarded [rs1, rs2, rd] s
    (finish (.dest rd) rd (modSigned s.tick (readReg s .first rs1) (readReg s .second rs2)) s)

/-- DIVU: unsigned quotient (40_arithmetic.md R119). -/
def execDivu (rd rs1 rs2 : RegIdx) (s : State) : Result :=
  guarded [rs1, rs2, rd] s
    (finish (.dest rd) rd (divUnsigned s.tick (readReg s .first rs1) (readReg s .second rs2)) s)

/-- MODU: unsigned remainder (40_arithmetic.md R122). -/
def execModu (rd rs1 rs2 : RegIdx) (s : State) : Result :=
  guarded [rs1, rs2, rd] s
    (finish (.dest rd) rd (modUnsigned s.tick (readReg s .first rs1) (readReg s .second rs2)) s)

end Sys2Proof.Machine
end

