-- ==== Sys2Proof/Machine/Compare.lean ====
section
/-!
DEFINITION. Compare and sign-extension instructions (43_compare_extend.md R160 to R168): ELT ELTU EEQ ENEQ EXBW EXHW.
-/

namespace Sys2Proof.Machine

/-- ELT: signed less than (43_compare_extend.md R161). -/
def execElt (rd rs1 rs2 : RegIdx) (s : State) : Result :=
  guarded [rs1, rs2, rd] s (finish (.dest rd) rd (truthWord ((readReg s .first rs1).slt (readReg s .second rs2))) s)

/-- ELTU: unsigned less than (43_compare_extend.md R162). -/
def execEltu (rd rs1 rs2 : RegIdx) (s : State) : Result :=
  guarded [rs1, rs2, rd] s (finish (.dest rd) rd (truthWord ((readReg s .first rs1).ult (readReg s .second rs2))) s)

/-- EEQ: all 32 bits equal (43_compare_extend.md R163). -/
def execEeq (rd rs1 rs2 : RegIdx) (s : State) : Result :=
  guarded [rs1, rs2, rd] s (finish (.dest rd) rd (truthWord (readReg s .first rs1 == readReg s .second rs2)) s)

/-- ENEQ: some bit differs (43_compare_extend.md R164). -/
def execEneq (rd rs1 rs2 : RegIdx) (s : State) : Result :=
  guarded [rs1, rs2, rd] s (finish (.dest rd) rd (truthWord (readReg s .first rs1 != readReg s .second rs2)) s)

/-- EXBW: sign extension of bits 7:0 (43_compare_extend.md R166). -/
def execExbw (rd rs1 : RegIdx) (s : State) : Result :=
  guarded [rs1, rd] s (finish (.dest rd) rd (sext8 ((readReg s .first rs1).extractLsb' 0 8)) s)

/-- EXHW: sign extension of bits 15:0 (43_compare_extend.md R167). -/
def execExhw (rd rs1 : RegIdx) (s : State) : Result :=
  guarded [rs1, rd] s (finish (.dest rd) rd (sext16 ((readReg s .first rs1).extractLsb' 0 16)) s)

end Sys2Proof.Machine
end

