-- ==== Sys2Proof/Machine/Control.lean ====
section
/-!
DEFINITION. Control transfer instructions (45_control_transfer.md R195 to R209): BRZ BRNZ JP JPL JPR JPRL. There is no delay slot (R195).
-/

namespace Sys2Proof.Machine

/-- A conditional branch (45_control_transfer.md R195): to the target, or to the next instruction. -/
def branchIf (taken : Bool) (off : Half) (s : State) : Result :=
  .next ((s.track .plain).jump (if taken then branchTarget s off else s.nextPc))

/-- A jump that leaves the address of the next instruction in the Link Register (45_control_transfer.md R202, R206,
R207). -/
def jumpAndLink (target : Word) (s : State) : Result :=
  .next (((s.track .plain).setGpr linkReg s.nextPc).jump target)

/-- BRZ (45_control_transfer.md R196). -/
def execBrz (rs1 : RegIdx) (off : Half) (s : State) : Result :=
  guarded [rs1] s (branchIf (readReg s .first rs1 == 0#32) off s)

/-- BRNZ (45_control_transfer.md R198). -/
def execBrnz (rs1 : RegIdx) (off : Half) (s : State) : Result :=
  guarded [rs1] s (branchIf (readReg s .first rs1 != 0#32) off s)

/-- JP (45_control_transfer.md R200). -/
def execJp (off : BitVec 26) (s : State) : Result :=
  .next ((s.track .plain).jump (jumpTarget s off))

/-- JPL (45_control_transfer.md R202). -/
def execJpl (off : BitVec 26) (s : State) : Result := jumpAndLink (jumpTarget s off) s

/-- JPR: absolute, all 32 bits (45_control_transfer.md R204). -/
def execJpr (rs1 : RegIdx) (s : State) : Result :=
  guarded [rs1] s (.next ((s.track .plain).jump (readReg s .first rs1)))

/-- JPRL: the target is read before the link is written (45_control_transfer.md R206, D19). -/
def execJprl (rs1 : RegIdx) (s : State) : Result :=
  guarded [rs1] s (jumpAndLink (readReg s .first rs1) s)

end Sys2Proof.Machine
end

