-- ==== Sys2Proof/Machine/LoadStore.lean ====
section
/-!
DEFINITION. Load and store instructions (44_load_store.md R175 to R184): LB LH LW SB SH SW.
-/

namespace Sys2Proof.Machine

/-- The end of a load: a value that the platform does not give is not admitted (20_memory.md R67), else it goes to
`rd`, with its bus transaction recorded and the delayed-load slot open (44_load_store.md R183, R184). -/
def finishLoad (rd : RegIdx) (mode : BusMode) (a : Word) (v : Option Word) (s : State) : Result :=
  match v with
  | none => .fault .dataNotBacked
  | some w => finish (.load rd) rd w (s.withRead mode a)

/-- The end of a store of the bytes `bs` at the aligned address `a`, with its bus transaction recorded
(44_load_store.md R175, R183); a store names no destination. -/
def finishStore (mode : BusMode) (a dataOut : Word) (bs : List Byte) (s : State) : Result :=
  match memWrite s a bs with
  | none => .fault .dataNotBacked
  | some s' => .next ((s'.withWrite mode a dataOut).track .plain).advance

/-- The effective address of a load, base in the `rs1` field (44_load_store.md R176, 20_memory.md R57). -/
def loadAddress (s : State) (rs1 : RegIdx) (off : Half) : Word := effectiveAddress (readReg s .first rs1) off

/-- The effective address of a store, base in the `rd` field (44_load_store.md R176, 20_memory.md R57). -/
def storeAddress (s : State) (rd : RegIdx) (off : Half) : Word := effectiveAddress (readReg s .first rd) off

/-- The low byte, as SB stores it (20_memory.md R59). -/
def storeBytes1 (v : Word) : List Byte := [v.extractLsb' 0 8]

/-- The low halfword, as SH stores it, big endian (20_memory.md R59). -/
def storeBytes2 (v : Word) : List Byte := [v.extractLsb' 8 8, v.extractLsb' 0 8]

/-- The word, as SW stores it, big endian (20_memory.md R59). -/
def storeBytes4 (v : Word) : List Byte := bytesOfWord v

/-- LB (44_load_store.md R177). -/
def execLb (rd : RegIdx) (off : Half) (rs1 : RegIdx) (s : State) : Result :=
  guarded [rs1, rd] s
    (finishLoad rd .signedByteRead (loadAddress s rs1 off)
      ((memRead1 s (loadAddress s rs1 off)).map sext8) s)

/-- LH (44_load_store.md R178). -/
def execLh (rd : RegIdx) (off : Half) (rs1 : RegIdx) (s : State) : Result :=
  guarded [rs1, rd] s
    (finishLoad rd .signedHalfRead (align2 (loadAddress s rs1 off))
      ((memRead2 s (align2 (loadAddress s rs1 off))).map sext16) s)

/-- LW (44_load_store.md R179). -/
def execLw (rd : RegIdx) (off : Half) (rs1 : RegIdx) (s : State) : Result :=
  guarded [rs1, rd] s
    (finishLoad rd .signedWordRead (align4 (loadAddress s rs1 off))
      (memRead4 s (align4 (loadAddress s rs1 off))) s)

/-- SB: base `rd`, data `rs1` (44_load_store.md R180). -/
def execSb (off : Half) (rd rs1 : RegIdx) (s : State) : Result :=
  guarded [rd, rs1] s
    (finishStore .byteWrite (storeAddress s rd off)
      (Config.storeLanes (storeAddress s rd off) 1 (readReg s .second rs1)) (storeBytes1 (readReg s .second rs1)) s)

/-- SH: base `rd`, data `rs1` (44_load_store.md R181). -/
def execSh (off : Half) (rd rs1 : RegIdx) (s : State) : Result :=
  guarded [rd, rs1] s
    (finishStore .halfWrite (align2 (storeAddress s rd off))
      (Config.storeLanes (align2 (storeAddress s rd off)) 2 (readReg s .second rs1))
      (storeBytes2 (readReg s .second rs1)) s)

/-- SW: base `rd`, data `rs1` (44_load_store.md R182). -/
def execSw (off : Half) (rd rs1 : RegIdx) (s : State) : Result :=
  guarded [rd, rs1] s
    (finishStore .wordWrite (align4 (storeAddress s rd off)) (readReg s .second rs1)
      (storeBytes4 (readReg s .second rs1)) s)

end Sys2Proof.Machine
end

