-- ==== Sys2Proof/Machine/Logical.lean ====
section
/-!
DEFINITION. Logical instructions (41_logical.md R130 to R139): AND ANDI OR ORI XOR XORI NAND NOR.
-/

namespace Sys2Proof.Machine

/-- AND (41_logical.md R131). -/
def execAnd (rd rs1 rs2 : RegIdx) (s : State) : Result :=
  guarded [rs1, rs2, rd] s (finish (.dest rd) rd (readReg s .first rs1 &&& readReg s .second rs2) s)

/-- ANDI: the immediate is zero-extended (41_logical.md R132). -/
def execAndi (rd rs1 : RegIdx) (imm : Half) (s : State) : Result :=
  guarded [rs1, rd] s (finish (.dest rd) rd (readReg s .first rs1 &&& zext16 imm) s)

/-- OR (41_logical.md R133). -/
def execOr (rd rs1 rs2 : RegIdx) (s : State) : Result :=
  guarded [rs1, rs2, rd] s (finish (.dest rd) rd (readReg s .first rs1 ||| readReg s .second rs2) s)

/-- ORI: the immediate is zero-extended (41_logical.md R134). -/
def execOri (rd rs1 : RegIdx) (imm : Half) (s : State) : Result :=
  guarded [rs1, rd] s (finish (.dest rd) rd (readReg s .first rs1 ||| zext16 imm) s)

/-- XOR (41_logical.md R135). -/
def execXor (rd rs1 rs2 : RegIdx) (s : State) : Result :=
  guarded [rs1, rs2, rd] s (finish (.dest rd) rd (readReg s .first rs1 ^^^ readReg s .second rs2) s)

/-- XORI: the immediate is zero-extended (41_logical.md R136). -/
def execXori (rd rs1 : RegIdx) (imm : Half) (s : State) : Result :=
  guarded [rs1, rd] s (finish (.dest rd) rd (readReg s .first rs1 ^^^ zext16 imm) s)

/-- NAND (41_logical.md R137). -/
def execNand (rd rs1 rs2 : RegIdx) (s : State) : Result :=
  guarded [rs1, rs2, rd] s (finish (.dest rd) rd (~~~(readReg s .first rs1 &&& readReg s .second rs2)) s)

/-- NOR (41_logical.md R138). -/
def execNor (rd rs1 rs2 : RegIdx) (s : State) : Result :=
  guarded [rs1, rs2, rd] s (finish (.dest rd) rd (~~~(readReg s .first rs1 ||| readReg s .second rs2)) s)

end Sys2Proof.Machine
end

