-- ==== Sys2Proof/Machine/Shift.lean ====
section
/-!
DEFINITION. Shift instructions (42_shift.md R145 to R154): LLS LLSI LRS LRSI ARS ARSI LSOI.
-/

namespace Sys2Proof.Machine

/-- LLS: logical left shift (42_shift.md R146, R153). -/
def execLls (rd rs1 rs2 : RegIdx) (s : State) : Result :=
  guarded [rs1, rs2, rd] s (finish (.dest rd) rd (readReg s .first rs1 <<< shiftCount (readReg s .second rs2)) s)

/-- LLSI: logical left shift by an immediate (42_shift.md R147, R153). -/
def execLlsi (rd rs1 : RegIdx) (imm : Half) (s : State) : Result :=
  guarded [rs1, rd] s (finish (.dest rd) rd (readReg s .first rs1 <<< shiftCountImm imm) s)

/-- LRS: logical right shift, zeros enter (42_shift.md R148, R153). -/
def execLrs (rd rs1 rs2 : RegIdx) (s : State) : Result :=
  guarded [rs1, rs2, rd] s (finish (.dest rd) rd (readReg s .first rs1 >>> shiftCount (readReg s .second rs2)) s)

/-- LRSI: logical right shift by an immediate (42_shift.md R149, R153). -/
def execLrsi (rd rs1 : RegIdx) (imm : Half) (s : State) : Result :=
  guarded [rs1, rd] s (finish (.dest rd) rd (readReg s .first rs1 >>> shiftCountImm imm) s)

/-- ARS: arithmetic right shift, the sign enters (42_shift.md R150, R153). -/
def execArs (rd rs1 rs2 : RegIdx) (s : State) : Result :=
  guarded [rs1, rs2, rd] s (finish (.dest rd) rd ((readReg s .first rs1).sshiftRight (shiftCount (readReg s .second rs2))) s)

/-- ARSI: arithmetic right shift by an immediate (42_shift.md R151, R153). -/
def execArsi (rd rs1 : RegIdx) (imm : Half) (s : State) : Result :=
  guarded [rs1, rd] s (finish (.dest rd) rd ((readReg s .first rs1).sshiftRight (shiftCountImm imm)) s)

/-- LSOI: left shift by 16, then OR with the zero-extended immediate (42_shift.md R152). -/
def execLsoi (rd rs1 : RegIdx) (imm : Half) (s : State) : Result :=
  guarded [rs1, rd] s (finish (.dest rd) rd ((readReg s .first rs1 <<< 16) ||| zext16 imm) s)

end Sys2Proof.Machine
end

