-- ==== Sys2Proof/Machine/System.lean ====
section
/-!
DEFINITION. System instructions (46_system.md R215 to R224): NOP RETI TRAP.
-/

namespace Sys2Proof.Machine

/-- NOP: only pc and the trackers change (46_system.md R216). -/
def execNop (s : State) : Result := .next (s.track .nop).advance

/-- RETI: the same in every mode (46_system.md R218, D27); GPR2 is an ordinary source, subject to the delayed-load rule. -/
def execReti (s : State) : Result :=
  .next (returnFromInterrupt (readReg s .first returnReg) (s.track .plain))

/-- TRAP: entered when internal interrupts are permitted, else ignored (46_system.md R220); an offset whose extension
matters is refused when the TRAP would be taken (R221). -/
def execTrap (off : BitVec 26) (s : State) : Result :=
  if iieTested s then
    if off[25] then .refused .trapOffsetExtension else .next (raiseTrap off (s.track .plain))
  else .next (s.track .plain).advance

end Sys2Proof.Machine
end

