-- ==== Sys2Proof/Machine/Dispatch.lean ====
section
/-!
DEFINITION. The meaning of every instruction: one arm for each constructor of `Instr` (30_encoding.md R92).
-/

namespace Sys2Proof.Machine

def exec (i : Instr) (s : State) : Host.Outcome State Fault Refusal :=
  match i with
  | .add rd rs1 rs2 => Sys2Proof.Machine.execAdd rd rs1 rs2 s
  | .sub rd rs1 rs2 => Sys2Proof.Machine.execSub rd rs1 rs2 s
  | .mul rd rs1 rs2 => Sys2Proof.Machine.execMul rd rs1 rs2 s
  | .div rd rs1 rs2 => Sys2Proof.Machine.execDiv rd rs1 rs2 s
  | .mod rd rs1 rs2 => Sys2Proof.Machine.execMod rd rs1 rs2 s
  | .divu rd rs1 rs2 => Sys2Proof.Machine.execDivu rd rs1 rs2 s
  | .modu rd rs1 rs2 => Sys2Proof.Machine.execModu rd rs1 rs2 s
  | .and rd rs1 rs2 => Sys2Proof.Machine.execAnd rd rs1 rs2 s
  | .or rd rs1 rs2 => Sys2Proof.Machine.execOr rd rs1 rs2 s
  | .xor rd rs1 rs2 => Sys2Proof.Machine.execXor rd rs1 rs2 s
  | .nand rd rs1 rs2 => Sys2Proof.Machine.execNand rd rs1 rs2 s
  | .nor rd rs1 rs2 => Sys2Proof.Machine.execNor rd rs1 rs2 s
  | .lls rd rs1 rs2 => Sys2Proof.Machine.execLls rd rs1 rs2 s
  | .lrs rd rs1 rs2 => Sys2Proof.Machine.execLrs rd rs1 rs2 s
  | .ars rd rs1 rs2 => Sys2Proof.Machine.execArs rd rs1 rs2 s
  | .elt rd rs1 rs2 => Sys2Proof.Machine.execElt rd rs1 rs2 s
  | .eltu rd rs1 rs2 => Sys2Proof.Machine.execEltu rd rs1 rs2 s
  | .eeq rd rs1 rs2 => Sys2Proof.Machine.execEeq rd rs1 rs2 s
  | .eneq rd rs1 rs2 => Sys2Proof.Machine.execEneq rd rs1 rs2 s
  | .addi rd rs1 imm => Sys2Proof.Machine.execAddi rd rs1 imm s
  | .subi rd rs1 imm => Sys2Proof.Machine.execSubi rd rs1 imm s
  | .andi rd rs1 imm => Sys2Proof.Machine.execAndi rd rs1 imm s
  | .ori rd rs1 imm => Sys2Proof.Machine.execOri rd rs1 imm s
  | .xori rd rs1 imm => Sys2Proof.Machine.execXori rd rs1 imm s
  | .llsi rd rs1 imm => Sys2Proof.Machine.execLlsi rd rs1 imm s
  | .lrsi rd rs1 imm => Sys2Proof.Machine.execLrsi rd rs1 imm s
  | .arsi rd rs1 imm => Sys2Proof.Machine.execArsi rd rs1 imm s
  | .lsoi rd rs1 imm => Sys2Proof.Machine.execLsoi rd rs1 imm s
  | .lb rd off rs1 => Sys2Proof.Machine.execLb rd off rs1 s
  | .lh rd off rs1 => Sys2Proof.Machine.execLh rd off rs1 s
  | .lw rd off rs1 => Sys2Proof.Machine.execLw rd off rs1 s
  | .sb off rd rs1 => Sys2Proof.Machine.execSb off rd rs1 s
  | .sh off rd rs1 => Sys2Proof.Machine.execSh off rd rs1 s
  | .sw off rd rs1 => Sys2Proof.Machine.execSw off rd rs1 s
  | .brz rs1 off => Sys2Proof.Machine.execBrz rs1 off s
  | .brnz rs1 off => Sys2Proof.Machine.execBrnz rs1 off s
  | .jp off => Sys2Proof.Machine.execJp off s
  | .jpl off => Sys2Proof.Machine.execJpl off s
  | .trap off => Sys2Proof.Machine.execTrap off s
  | .jpr rs1 => Sys2Proof.Machine.execJpr rs1 s
  | .jprl rs1 => Sys2Proof.Machine.execJprl rs1 s
  | .nop => Sys2Proof.Machine.execNop s
  | .reti => Sys2Proof.Machine.execReti s
  | .exbw rd rs1 => Sys2Proof.Machine.execExbw rd rs1 s
  | .exhw rd rs1 => Sys2Proof.Machine.execExhw rd rs1 s

end Sys2Proof.Machine
end

