-- ==== Sys2Proof/Machine/Step.lean ====
section
/-!
DEFINITION. One step of the machine, in the order of 60_exceptions.md R266: reset, external interrupt, instruction; and
the placing of an instruction where the next step fetches it.
-/

namespace Sys2Proof.Machine

/-- Fetch, decode and execute the instruction at pc (60_exceptions.md R266, line 3). -/
def runInstruction (s : State) : Host.Outcome State Fault Refusal :=
  match fetch s with
  | .fault f => .fault f
  | .refused r => .refused r
  | .word w =>
    match decode w with
    | .error e => .refused (refusalOf e)
    | .ok i => exec i s

/-- One step (60_exceptions.md R266). -/
def step (s : State) : Host.Outcome State Fault Refusal :=
  if s.pinsNow.reset then .next s.openStep.coreReset
  else
    match atBoundary s.pinsNow s.openStep with
    | .taken t => .next t
    | .proceed t => runInstruction t

/-- `s` with the word whose low `nbits` bits are `w` stored where the next fetch reads it: the platform's load of
instruction memory (20_memory.md R66, R73; log 1). -/
def State.withFetchWord (s : State) (nbits w : Nat) : State :=
  { s with imem := s.imem.load (fetchAddress s.pc).toNat (bytesOfWord (BitVec.ofNat 32 (w % 2 ^ nbits))) }

end Sys2Proof.Machine
end

