-- ==== Sys2Proof/Safety.lean ====
section
/-!
DEFINITION. The terms in which claims about the machine are stated: what an instruction names, when it may complete, what
it changes and what it leaves alone, and the invariant of a run.
-/

namespace Sys2Proof

/-- The register operands of an instruction: the fields it uses, in any role (70_reset_and_hazards.md R283). Implicit
uses of GPR1, GPR2 and GPR3 name nothing. -/
def Instr.named : Instr → List RegIdx
  | .add rd rs1 rs2 | .sub rd rs1 rs2 | .mul rd rs1 rs2 | .div rd rs1 rs2 | .mod rd rs1 rs2 => [rd, rs1, rs2]
  | .divu rd rs1 rs2 | .modu rd rs1 rs2 => [rd, rs1, rs2]
  | .and rd rs1 rs2 | .or rd rs1 rs2 | .xor rd rs1 rs2 | .nand rd rs1 rs2 | .nor rd rs1 rs2 => [rd, rs1, rs2]
  | .lls rd rs1 rs2 | .lrs rd rs1 rs2 | .ars rd rs1 rs2 => [rd, rs1, rs2]
  | .elt rd rs1 rs2 | .eltu rd rs1 rs2 | .eeq rd rs1 rs2 | .eneq rd rs1 rs2 => [rd, rs1, rs2]
  | .addi rd rs1 _ | .subi rd rs1 _ | .andi rd rs1 _ | .ori rd rs1 _ | .xori rd rs1 _ => [rd, rs1]
  | .llsi rd rs1 _ | .lrsi rd rs1 _ | .arsi rd rs1 _ | .lsoi rd rs1 _ => [rd, rs1]
  | .lb rd _ rs1 | .lh rd _ rs1 | .lw rd _ rs1 => [rd, rs1]
  | .sb _ rd rs1 | .sh _ rd rs1 | .sw _ rd rs1 => [rd, rs1]
  | .brz rs1 _ | .brnz rs1 _ | .jpr rs1 | .jprl rs1 => [rs1]
  | .jp _ | .jpl _ | .trap _ | .nop | .reti => []
  | .exbw rd rs1 | .exhw rd rs1 => [rd, rs1]

/-- The destination operand of an instruction; a store and a control transfer have none (44_load_store.md R176). -/
def Instr.destOperand : Instr → Option RegIdx
  | .add rd _ _ | .sub rd _ _ | .mul rd _ _ | .div rd _ _ | .mod rd _ _ | .divu rd _ _ | .modu rd _ _ => some rd
  | .and rd _ _ | .or rd _ _ | .xor rd _ _ | .nand rd _ _ | .nor rd _ _ => some rd
  | .lls rd _ _ | .lrs rd _ _ | .ars rd _ _ | .elt rd _ _ | .eltu rd _ _ | .eeq rd _ _ | .eneq rd _ _ => some rd
  | .addi rd _ _ | .subi rd _ _ | .andi rd _ _ | .ori rd _ _ | .xori rd _ _ => some rd
  | .llsi rd _ _ | .lrsi rd _ _ | .arsi rd _ _ | .lsoi rd _ _ => some rd
  | .lb rd _ _ | .lh rd _ _ | .lw rd _ _ | .exbw rd _ | .exhw rd _ => some rd
  | .sb _ _ _ | .sh _ _ _ | .sw _ _ _ | .brz _ _ | .brnz _ _ => none
  | .jp _ | .jpl _ | .trap _ | .jpr _ | .jprl _ | .nop | .reti => none

/-- The source operands of an instruction: the register fields it reads; a store reads both of its fields (44_load_store.md
R176). The implicit source GPR2 of RETI is no operand. -/
def Instr.sources : Instr → List RegIdx
  | .add _ rs1 rs2 | .sub _ rs1 rs2 | .mul _ rs1 rs2 | .div _ rs1 rs2 | .mod _ rs1 rs2 => [rs1, rs2]
  | .divu _ rs1 rs2 | .modu _ rs1 rs2 => [rs1, rs2]
  | .and _ rs1 rs2 | .or _ rs1 rs2 | .xor _ rs1 rs2 | .nand _ rs1 rs2 | .nor _ rs1 rs2 => [rs1, rs2]
  | .lls _ rs1 rs2 | .lrs _ rs1 rs2 | .ars _ rs1 rs2 => [rs1, rs2]
  | .elt _ rs1 rs2 | .eltu _ rs1 rs2 | .eeq _ rs1 rs2 | .eneq _ rs1 rs2 => [rs1, rs2]
  | .addi _ rs1 _ | .subi _ rs1 _ | .andi _ rs1 _ | .ori _ rs1 _ | .xori _ rs1 _ => [rs1]
  | .llsi _ rs1 _ | .lrsi _ rs1 _ | .arsi _ rs1 _ | .lsoi _ rs1 _ | .lb _ _ rs1 | .lh _ _ rs1 | .lw _ _ rs1 => [rs1]
  | .sb _ rd rs1 | .sh _ rd rs1 | .sw _ rd rs1 => [rd, rs1]
  | .brz rs1 _ | .brnz rs1 _ | .jpr rs1 | .jprl rs1 | .exbw _ rs1 | .exhw _ rs1 => [rs1]
  | .jp _ | .jpl _ | .trap _ | .nop | .reti => []

/-- The four instructions that write the ALU flags (10_state.md R32). -/
def Instr.writesFlags : Instr → Bool
  | .add _ _ _ | .addi _ _ _ | .sub _ _ _ | .subi _ _ _ => true
  | _ => false

/-- The three instructions that write data memory (20_memory.md R53). -/
def Instr.stores : Instr → Bool
  | .sb _ _ _ | .sh _ _ _ | .sw _ _ _ => true
  | _ => false

/-- The destination of a load (44_load_store.md R176). -/
def Instr.loadDest : Instr → Option RegIdx
  | .lb rd _ _ | .lh rd _ _ | .lw rd _ _ => some rd
  | .add _ _ _ | .sub _ _ _ | .mul _ _ _ | .div _ _ _ | .mod _ _ _ | .divu _ _ _ | .modu _ _ _ => none
  | .and _ _ _ | .or _ _ _ | .xor _ _ _ | .nand _ _ _ | .nor _ _ _ | .lls _ _ _ | .lrs _ _ _ | .ars _ _ _ => none
  | .elt _ _ _ | .eltu _ _ _ | .eeq _ _ _ | .eneq _ _ _ => none
  | .addi _ _ _ | .subi _ _ _ | .andi _ _ _ | .ori _ _ _ | .xori _ _ _ => none
  | .llsi _ _ _ | .lrsi _ _ _ | .arsi _ _ _ | .lsoi _ _ _ | .sb _ _ _ | .sh _ _ _ | .sw _ _ _ => none
  | .brz _ _ | .brnz _ _ | .jp _ | .jpl _ | .trap _ | .jpr _ | .jprl _ | .nop | .reti => none
  | .exbw _ _ | .exhw _ _ => none

/-- The word of an RR-type instruction as its rule writes it: `rs1<<27 | rs2<<22 | rd<<17 | base` (40_arithmetic.md
R111). -/
def rrWord (rs1 rs2 rd : RegIdx) (base : Word) : Word :=
  rs1.setWidth 32 <<< 27 ||| rs2.setWidth 32 <<< 22 ||| rd.setWidth 32 <<< 17 ||| base

/-- The word of an RI-type or MA-type instruction as its rule writes it: `field<<16 | rs1<<11 | rd<<6 | opcode`
(40_arithmetic.md R112, 44_load_store.md R177). -/
def riWord (field : Half) (rs1 rd : RegIdx) (opcode : Word) : Word :=
  field.setWidth 32 <<< 16 ||| rs1.setWidth 32 <<< 11 ||| rd.setWidth 32 <<< 6 ||| opcode

/-- The word of a BR-type instruction as its rule writes it: `offset<<16 | rs1<<11 | opcode` (45_control_transfer.md
R196). -/
def brWord (off : Half) (rs1 : RegIdx) (opcode : Word) : Word :=
  off.setWidth 32 <<< 16 ||| rs1.setWidth 32 <<< 11 ||| opcode

/-- The word of a JP-type instruction as its rule writes it: `offset<<6 | opcode` (45_control_transfer.md R200). -/
def jpWord (off : BitVec 26) (opcode : Word) : Word := off.setWidth 32 <<< 6 ||| opcode

/-- The word of a JPR-type instruction as its rule writes it: `rs1<<6 | opcode` (45_control_transfer.md R204). -/
def jprWord (rs1 : RegIdx) (opcode : Word) : Word := rs1.setWidth 32 <<< 6 ||| opcode

/-- The word of an RT-type instruction as its rule writes it: `rd<<27 | rs1<<22 | base` (43_compare_extend.md R166). -/
def rtWord (rd rs1 : RegIdx) (base : Word) : Word := rd.setWidth 32 <<< 27 ||| rs1.setWidth 32 <<< 22 ||| base

/-- The rows of opcode_table.json in its order: the mask of the fixed and reserved bits, and what they must be. -/
def opcodeRows : List (Word × Word) :=
  [(0x0001FFFF#32, 0x00000001#32), (0x0001FFFF#32, 0x00000041#32), (0x0001FFFF#32, 0x00000081#32),
   (0x0001FFFF#32, 0x000000C1#32), (0x0001FFFF#32, 0x00000101#32), (0x0001FFFF#32, 0x00000141#32),
   (0x0001FFFF#32, 0x00000181#32), (0x0001FFFF#32, 0x00004001#32), (0x0001FFFF#32, 0x00004041#32),
   (0x0001FFFF#32, 0x00004081#32), (0x0001FFFF#32, 0x000040C1#32), (0x0001FFFF#32, 0x00004101#32),
   (0x0001FFFF#32, 0x00008001#32), (0x0001FFFF#32, 0x00008041#32), (0x0001FFFF#32, 0x00008081#32),
   (0x0001FFFF#32, 0x0000C001#32), (0x0001FFFF#32, 0x0000C041#32), (0x0001FFFF#32, 0x0000C081#32),
   (0x0001FFFF#32, 0x0000C0C1#32)] ++
  [(0x0000003F#32, 0x00000020#32), (0x0000003F#32, 0x00000021#32), (0x0000003F#32, 0x00000022#32),
   (0x0000003F#32, 0x00000023#32), (0x0000003F#32, 0x00000024#32), (0x0000003F#32, 0x00000025#32),
   (0x0000003F#32, 0x00000026#32), (0x0000003F#32, 0x00000027#32), (0x0000003F#32, 0x00000028#32),
   (0x0000003F#32, 0x00000002#32), (0x0000003F#32, 0x00000003#32), (0x0000003F#32, 0x00000004#32),
   (0x0000003F#32, 0x00000005#32), (0x0000003F#32, 0x00000006#32), (0x0000003F#32, 0x00000007#32)] ++
  [(0x000007FF#32, 0x00000009#32), (0x000007FF#32, 0x0000000A#32), (0x0000003F#32, 0x0000000B#32),
   (0x0000003F#32, 0x0000000C#32), (0x0000003F#32, 0x0000000D#32), (0xFFFFF83F#32, 0x0000000E#32),
   (0xFFFFF83F#32, 0x0000000F#32), (0xFFFFFFFF#32, 0x00000000#32), (0xFFFFFFFF#32, 0x00000040#32),
   (0x003FFFFF#32, 0x00000080#32), (0x003FFFFF#32, 0x00000880#32)]

namespace Machine

/-- The two-NOP rule is met for an instruction with these register operands (70_reset_and_hazards.md R283). -/
abbrev NamesOk (s : State) (named : List RegIdx) : Prop := statusReg ∈ named → s.trk.nopRun = 2

/-- The value `v` may go to `rd`: a kernel-mode write of GPR1 sets no undefined bit and no undefined mode (10_state.md
R36, R38). -/
abbrev DestOk (s : State) (rd : RegIdx) (v : Word) : Prop :=
  rd = statusReg → s.sr.mode = 0b00#2 → v &&& statusUndefinedMask = 0#32 ∧ v[15] = false

/-- What no instruction changes: the instruction memory, the platform's map, the inputs to come, the wait of an external
request, the output event, the index of the free values. -/
structure Untouched (s t : State) : Prop where
  imem : t.imem = s.imem
  map : t.map = s.map
  pins : t.pins = s.pins
  extWait : t.extWait = s.extWait
  extcatch : t.extcatch = s.extcatch
  tick : t.tick = s.tick

/-- Every byte of data memory reads as before. -/
abbrev SameMemory (s t : State) : Prop := ∀ a : Nat, t.dmem.read a = s.dmem.read a

/-- The effect of an instruction with destination operand `rd` and result `v`, executed as `k`, that leaves the flags
`fl` and the bus record `bus`: GPR0 discards (10_state.md R22), GPR1 takes EIE, IIE and MODE in kernel mode only and never
a flag (R37), every other register but `rd` and all of data memory stay. -/
structure RegisterEffect (k : Executed) (fl : AluFlags) (bus : Option BusAccess) (rd : RegIdx) (v : Word)
    (s t : State) : Prop where
  pc : t.pc = s.pc + 4#32
  dest : rd ≠ zeroReg → rd ≠ statusReg → t.reg rd = v
  zero : t.reg zeroReg = 0#32
  others : ∀ j, j ≠ rd → j ≠ statusReg → t.reg j = s.reg j
  flags : t.sr.flags = fl
  permissions : rd ≠ statusReg ∨ s.sr.mode ≠ 0b00#2 →
    t.sr.eie = s.sr.eie ∧ t.sr.iie = s.sr.iie ∧ t.sr.mode = s.sr.mode
  statusWritten : rd = statusReg → s.sr.mode = 0b00#2 →
    t.sr.eie = v[8] ∧ t.sr.iie = v[9] ∧ t.sr.mode = v.extractLsb' 14 2
  memory : SameMemory s t
  trackers : t.trk = s.trk.after k s.sr
  busRecord : t.bus = bus
  untouched : Untouched s t

/-- The effect of a transfer to `target` that writes no register. -/
structure JumpEffect (target : Word) (s t : State) : Prop where
  pc : t.pc = target
  registers : ∀ j, t.reg j = s.reg j
  status : t.sr = s.sr
  memory : SameMemory s t
  trackers : t.trk = s.trk.after .plain s.sr
  busRecord : t.bus = s.bus
  untouched : Untouched s t

/-- The effect of a transfer to `target` that leaves the address of the next instruction in GPR3
(45_control_transfer.md R207). -/
structure LinkEffect (target : Word) (s t : State) : Prop where
  pc : t.pc = target
  link : t.reg linkReg = s.pc + 4#32
  others : ∀ j, j ≠ linkReg → t.reg j = s.reg j
  status : t.sr = s.sr
  memory : SameMemory s t
  trackers : t.trk = s.trk.after .plain s.sr
  busRecord : t.bus = s.bus
  untouched : Untouched s t

/-- The effect of a store of the bytes `bs` from address `a` on, with the bus record `bus`: a byte the platform holds as
RAM is stored, a device's byte and every byte outside stay as they were. -/
structure StoreEffect (a : Nat) (bs : List Byte) (bus : BusAccess) (s t : State) : Prop where
  pc : t.pc = s.pc + 4#32
  registers : ∀ j, t.reg j = s.reg j
  status : t.sr = s.sr
  stored : ∀ k (h : k < bs.length), regionAt s.map (a + k) = some .ram → t.dmem.read (a + k) = bs[k]
  device : ∀ k, k < bs.length → regionAt s.map (a + k) = some .device → t.dmem.read (a + k) = s.dmem.read (a + k)
  outside : ∀ b, b < a ∨ a + bs.length ≤ b → t.dmem.read b = s.dmem.read b
  trackers : t.trk = s.trk.after .plain s.sr
  busRecord : t.bus = some bus
  untouched : Untouched s t

/-- What every interrupt entry does (60_exceptions.md R240): the return address to GPR2, EIE and IIE cleared, kernel
mode, pc at the entry address; the flags, every other register and all of data memory stay. -/
structure EntryEffect (entry : Word) (s t : State) : Prop where
  pc : t.pc = entry
  returnAddress : t.reg returnReg = s.pc
  others : ∀ j, j ≠ returnReg → j ≠ statusReg → t.reg j = s.reg j
  prohibited : t.sr.eie = false ∧ t.sr.iie = false
  kernel : t.sr.mode = 0b00#2
  flags : t.sr.flags = s.sr.flags
  memory : SameMemory s t
  busRecord : t.bus = s.bus
  imem : t.imem = s.imem
  map : t.map = s.map
  pins : t.pins = s.pins
  tick : t.tick = s.tick

/-- The trackers agree with rule 283: a NOP run closes the delayed-load slot and the windows of GPR1 and of the flags
(10_state.md R41, 70_reset_and_hazards.md R283 to R285). -/
structure HazardInv (t : Trackers) : Prop where
  afterNop : t.nopRun ≠ 0 → t.loadShadow = none ∧ t.sinceFlagWrite = .far ∧ t.sinceSrWrite ≠ .zero
  afterTwo : t.nopRun = 2 → t.sinceSrWrite = .far
  shadow : t.loadShadow ≠ some zeroReg

/-- The invariant of a run: the mode is kernel or user (10_state.md R36), both memories are in their canonical form, the
trackers agree with each other. -/
structure RunInv (s : State) : Prop where
  mode : s.sr.mode = 0b00#2 ∨ s.sr.mode = 0b01#2
  dmem : s.dmem.wf = true
  imem : s.imem.wf = true
  hazards : HazardInv s.trk

/-- The hardware's own tests of EIE and IIE see the fields as they stand: no explicit write of GPR1 was among the last two
instructions (70_reset_and_hazards.md R284), or the hardware itself changed the fields after it, whose change the model
takes as effective at once (DEDUCED: log 18). -/
abbrev OutsideStatusWindow (s : State) : Prop := s.trk.sinceSrWrite = .far ∨ s.trk.srDirect = true

/-- The acceptance condition of 60_exceptions.md R243 at the coming boundary, but for `RESET`: EXTINT_IN is 1 and EIE is 1,
in the window of 70_reset_and_hazards.md R284 the new or the old EIE by a free choice (D7, log 18). IIE and the mode play
no part. -/
abbrev RequestStands (s : State) : Prop :=
  s.pinsNow.extint = true ∧ (OutsideStatusWindow s → s.sr.eie = true) ∧
    (¬OutsideStatusWindow s → (if Config.seesNewEie (s.tick + 1) then s.sr.eie else s.trk.srOld.eie) = true)

/-- The coming boundary takes no interrupt and no reset, and the wait of a standing request becomes `w`: the step runs an
instruction (60_exceptions.md R266). -/
abbrev RunsInstruction (s : State) (w : Option Nat) : Prop :=
  s.pinsNow.reset = false ∧
    ((¬RequestStands s ∧ w = none) ∨ (RequestStands s ∧ ∃ n, extWaitNow s.openStep = n + 1 ∧ w = some n))

end Machine

end Sys2Proof
end

