-- ==== Sys2Proof/WellFormed.lean ====
section
/-!
DEFINITION. What is well formed. An instruction carries its fields at the width the encoding gives them, and no
instruction restricts a register operand, an immediate or an offset (10_state.md R28, 30_encoding.md R89, R90, R98): every
term of `Instr` is well formed, and reserved fields are no operand of any term (30_encoding.md R95). The checks that can
fail are those on what the platform supplies: its map of the data space (20_memory.md R67, R52).
-/

namespace Sys2Proof

/-- Every term of `Instr` stands for one word: no row of the table restricts its operands (10_state.md R28). -/
def Instr.wellFormed (_i : Instr) : Bool := true

/-- A backed range is not empty and lies inside the 32-bit data space (20_memory.md R52, R67). -/
def Region.wellFormed (r : Region) : Bool := decide (0 < r.size) && decide (r.base + r.size ≤ 2 ^ 32)

/-- Two backed ranges share no address. -/
def Region.disjoint (r q : Region) : Bool :=
  decide (r.base + r.size ≤ q.base) || decide (q.base + q.size ≤ r.base)

/-- A platform map is well formed when its ranges are and no two of them overlap: an address has one owner
(20_memory.md R67). -/
def mapWellFormed : List Region → Bool
  | [] => true
  | r :: rest => r.wellFormed && rest.all r.disjoint && mapWellFormed rest

end Sys2Proof
end

