-- ==== Sys2Proof/Certificates/Slice0/Obligations.lean ====
section
/-!
DEFINITION. The statements for the provers, in the order of OBLIGATIONS.json.
-/

section Statements

open Sys2Proof Sys2Proof.Machine

/-! ### Encoding -/

/-- Decoding the word of a well-formed instruction gives the instruction back, from the word and from its four bytes
(30_encoding.md R92, R94, R99). -/
def Obligations.DecodeOfEncode : Prop :=
  ∀ i : Instr, i.wellFormed = true → decode (encode i) = .ok i ∧ decodeBytes (bytesOfWord (encode i)) = .ok i

/-- A word that decodes is the word of what it decodes to: no bit of an accepted word is dropped (30_encoding.md R94,
R95). That a word with a reserved bit set is not accepted is the spec's decision D10 (log 20). -/
def Obligations.EncodeOfDecode : Prop :=
  ∀ (w : Word) (i : Instr), decode w = .ok i → encode i = w

/-- The decoder accepts exactly the words that some row of the opcode table matches, and a word matches one row at most
(30_encoding.md R92, R94; the masks of opcode_table.json, which hold the reserved bits: D10, log 20; the place of `rs1` in JPR and JPRL and bit 11 of
EXHW are the spec's own reading: R86, R88, log 34). -/
def Obligations.DecodeFollowsOpcodeRows : Prop :=
  (∀ w : Word, (∃ i, decode w = .ok i) ↔ ∃ r ∈ opcodeRows, w &&& r.1 = r.2) ∧
    ∀ (w : Word), ∀ r ∈ opcodeRows, ∀ q ∈ opcodeRows, w &&& r.1 = r.2 → w &&& q.1 = q.2 → r = q

/-- Which words are refused, and by which name: those with a reserved field that is not 0 and the unallocated ones
(30_encoding.md R91, R93, R94); that the machine refuses them is the spec's decision D10 and D11 (log 20). The reserved bits of JPR and JPRL and the
sub-function of EXHW are the spec's own reading (R86, R88; log 34). -/
def Obligations.RefusedWords : Prop :=
  (∀ w : Word, decode w = .error .reservedField ↔
    (w.toNat % 64 ∈ [9, 10] ∧ w.toNat / 2 ^ 6 % 32 ≠ 0) ∨
    (w.toNat % 64 ∈ [14, 15] ∧ w.toNat / 2 ^ 11 ≠ 0) ∨
    (w.toNat % 64 = 0 ∧ w.toNat / 2 ^ 6 % 32 ∈ [0, 1] ∧ w.toNat / 2 ^ 11 ≠ 0)) ∧
  (∀ w : Word, decode w = .error .unallocated ↔
    (w.toNat % 64 = 0 ∧ 3 ≤ w.toNat / 2 ^ 6 % 32) ∨
    (w.toNat % 64 = 0 ∧ w.toNat / 2 ^ 6 % 32 = 2 ∧ 2 ≤ w.toNat / 2 ^ 11 % 2 ^ 11) ∨
    (w.toNat % 64 = 1 ∧ w.toNat / 2 ^ 6 % 2 ^ 11 ∉
      [0x000, 0x001, 0x002, 0x003, 0x004, 0x005, 0x006, 0x100, 0x101, 0x102, 0x103, 0x104, 0x200, 0x201, 0x202,
       0x300, 0x301, 0x302, 0x303]) ∨
    w.toNat % 64 = 8 ∨ (16 ≤ w.toNat % 64 ∧ w.toNat % 64 ≤ 31) ∨ 41 ≤ w.toNat % 64) ∧
  ∀ (s : State) (w : Word), fetch s = .word w →
    (decode w = .error .reservedField → runInstruction s = .refused .reservedBits) ∧
    (decode w = .error .unallocated → runInstruction s = .refused .unallocatedWord)

/-- Words of the examples of the instruction rules, one of each format, decode to the instruction the rule prints
(40_arithmetic.md R111, R114; 44_load_store.md R178, R181; 45_control_transfer.md R196, R202, R204; 46_system.md R218;
43_compare_extend.md R166). The place of `rs1` in the word of JPR is the spec's own reading (30_encoding.md R86, C14; log
34). -/
def Obligations.SampleWords : Prop :=
  decode 0x8CA00001#32 = .ok (.add 16#5 17#5 18#5) ∧
  decode 0x00018C21#32 = .ok (.subi 16#5 17#5 1#16) ∧
  decode 0x00028C03#32 = .ok (.lh 16#5 2#16 17#5) ∧
  decode 0x00028C06#32 = .ok (.sh 2#16 16#5 17#5) ∧
  decode 0x00088009#32 = .ok (.brz 16#5 8#16) ∧
  decode 0x0000400C#32 = .ok (.jpl 0x100#26) ∧
  decode 0x000000CE#32 = .ok (.jpr 3#5) ∧
  decode 0x00000040#32 = .ok .reti ∧
  decode 0x84400080#32 = .ok (.exbw 16#5 17#5)

/-! ### Registers, the status register, the hazard trackers -/

/-- The register write function (10_state.md R28): GPR0 discards, GPR2 to GPR31 take the value and nothing else changes.
GPR1 is the matter of StatusWriteFilter. -/
def Obligations.RegisterWriteFunction : Prop :=
  ∀ (v : Word) (s : State),
    writeReg zeroReg v s = .next s ∧
    ∀ i : RegIdx, i ≠ zeroReg → i ≠ statusReg →
      ∃ t, writeReg i v s = .next t ∧ t.reg i = v ∧ (∀ j, j ≠ i → t.reg j = s.reg j) ∧
        t = { s with gpr := t.gpr }

/-- The write filter of GPR1 (10_state.md R37): in kernel mode bits 8, 9, 15:14 come from the value and the other bits of
GPR1 stay; in user mode nothing is written (D4, log 17); a value with an undefined bit (R38, D3, log 15) or an undefined
mode (R36, D5, log 16) is refused in kernel mode. -/
def Obligations.StatusWriteFilter : Prop :=
  ∀ (v : Word) (s : State),
    (s.sr.mode ≠ 0b00#2 → writeReg statusReg v s = .next s) ∧
    (s.sr.mode = 0b00#2 →
      ((∃ k < 32, (4 ≤ k ∧ k ≤ 7 ∨ 10 ≤ k ∧ k ≤ 13 ∨ 16 ≤ k) ∧ v.getLsbD k = true) →
        writeReg statusReg v s = .refused .statusUndefinedBits) ∧
      ((∀ k < 32, (4 ≤ k ∧ k ≤ 7 ∨ 10 ≤ k ∧ k ≤ 13 ∨ 16 ≤ k) → v.getLsbD k = false) →
        (v.getLsbD 15 = true → writeReg statusReg v s = .refused .statusUndefinedMode) ∧
        (v.getLsbD 15 = false → ∃ t, writeReg statusReg v s = .next t ∧ t = { s with sr := t.sr } ∧
          ∀ k < 32, (t.reg statusReg).getLsbD k =
            if k = 8 ∨ k = 9 ∨ k = 14 ∨ k = 15 then v.getLsbD k else (s.reg statusReg).getLsbD k)))

/-- The field map of GPR1 (10_state.md R31): C, Z, S, V in bits 3 to 0 (the order is the spec's decision D1, log 7), EIE in
bit 8, IIE in bit 9, MODE in bits 15:14; every undefined bit reads 0 (R38, D3, log 15). -/
def Obligations.StatusFieldMap : Prop :=
  ∀ (s : State) (k : Nat), k < 32 →
    (s.reg statusReg).getLsbD k =
      [s.sr.flags.v, s.sr.flags.s, s.sr.flags.z, s.sr.flags.c, false, false, false, false, s.sr.eie, s.sr.iie, false,
       false, false, false, s.sr.mode.getLsbD 0, s.sr.mode.getLsbD 1].getD k false

/-- The register read function (10_state.md R27): GPR0 is 0; the register loaded by the instruction just before reads as a
draw (70_reset_and_hazards.md R280, D25, log 13); any other general register reads as what it holds, and so does GPR1
outside its windows (R284, R285). -/
def Obligations.RegisterReadFunction : Prop :=
  ∀ (s : State) (p : ReadPort),
    readReg s p zeroReg = 0#32 ∧
    (∀ r, r ≠ zeroReg → s.trk.loadShadow = some r → readReg s p r = Config.loadSlot s.tick p) ∧
    (∀ r, r ≠ statusReg → s.trk.loadShadow ≠ some r → readReg s p r = s.reg r) ∧
    (s.trk.loadShadow ≠ some statusReg → s.trk.sinceSrWrite = .far → s.trk.sinceFlagWrite = .far →
      readReg s p statusReg = s.reg statusReg)

/-- The two-NOP rule (70_reset_and_hazards.md R283): an instruction is refused for it exactly when one of its register
operands is GPR1 and the two instructions executed before it were not both NOP. The refusal is the spec's decision D31
(log 14). -/
def Obligations.TwoNopRule : Prop :=
  ∀ (i : Instr) (s : State),
    exec i s = .refused .statusWithoutTwoNops ↔ statusReg ∈ i.named ∧ s.trk.nopRun ≠ 2

/-- What an instruction with destination GPR1 can end in, in kernel mode after two NOPs: a next state whose mode is kernel
or user, or one of the two refusals of undefined bits and modes (10_state.md R36, R38; D3, D5; logs 15, 16), or, for a
load, the access the platform does not back; in user mode GPR1 keeps EIE, IIE and MODE (R37, D4, log 17). -/
def Obligations.StatusDestinationOutcomes : Prop :=
  ∀ (i : Instr) (s : State), i.destOperand = some statusReg → s.trk.nopRun = 2 →
    (s.sr.mode = 0b00#2 →
      (∃ t, exec i s = .next t ∧ (t.sr.mode = 0b00#2 ∨ t.sr.mode = 0b01#2)) ∨
      exec i s = .refused .statusUndefinedBits ∨ exec i s = .refused .statusUndefinedMode ∨
      (i.loadDest ≠ none ∧ exec i s = .fault .dataNotBacked)) ∧
    (s.sr.mode ≠ 0b00#2 →
      (∃ t, exec i s = .next t ∧ t.sr.eie = s.sr.eie ∧ t.sr.iie = s.sr.iie ∧ t.sr.mode = s.sr.mode) ∨
      (i.loadDest ≠ none ∧ exec i s = .fault .dataNotBacked))

/-- What every executed instruction leaves in the hazard trackers (10_state.md R41). -/
def Obligations.TrackersAfterInstruction : Prop :=
  ∀ (i : Instr) (s t : State), exec i s = .next t →
    t.trk.loadShadow = i.loadDest.filter (fun r => r ≠ zeroReg) ∧
    t.trk.nopRun.val = (if i = .nop then min (s.trk.nopRun.val + 1) 2 else 0) ∧
    t.trk.sinceSrWrite = (if i.destOperand = some statusReg then .zero
      else match s.trk.sinceSrWrite with | .zero => .one | .one => .far | .far => .far) ∧
    t.trk.sinceFlagWrite = (if i.writesFlags then .zero else .far) ∧
    t.trk.srOld = (if i.destOperand = some statusReg then
      { eie := s.sr.eie, iie := s.sr.iie, mode := s.sr.mode } else s.trk.srOld)

/-- After two NOPs no hazard window is open: every register reads as what it holds (70_reset_and_hazards.md R280, R284,
R285). HazardInv is part of the invariant that RunInvariantKept states. -/
def Obligations.NoWindowAfterTwoNops : Prop :=
  ∀ (s : State) (p : ReadPort) (r : RegIdx), HazardInv s.trk → s.trk.nopRun = 2 → readReg s p r = s.reg r

/-! ### Integer arithmetic -/

/-- ADD and ADDI (40_arithmetic.md R111, R112): the sum modulo 2^32 and the four flags (10_state.md R33; the formulas of Z
and V are the spec's decision D2, log 8). -/
def Obligations.AdditionResult : Prop :=
  ∀ (s : State) (rd rs1 rs2 : RegIdx) (imm : Half) (i : Instr) (w : Word) (named : List RegIdx) (a b r : Word)
    (f : AluFlags),
    a = readReg s .first rs1 →
    (i, w, named, b) ∈
      [(.add rd rs1 rs2, rrWord rs1 rs2 rd 0x00000001#32, [rd, rs1, rs2], readReg s .second rs2),
       (.addi rd rs1 imm, riWord imm rs1 rd 0x20#32, [rd, rs1], BitVec.ofInt 32 imm.toInt)] →
    r.toNat = (a.toNat + b.toNat) % 2 ^ 32 →
    (f.c = true ↔ 2 ^ 32 ≤ a.toNat + b.toNat) → (f.z = true ↔ r.toNat = 0) → (f.s = true ↔ r.toInt < 0) →
    (f.v = true ↔ a.toInt + b.toInt < -2 ^ 31 ∨ 2 ^ 31 ≤ a.toInt + b.toInt) →
    encode i = w ∧
    (NamesOk s named → DestOk s rd r → ∃ t, exec i s = .next t ∧ RegisterEffect (.flagged rd) f s.bus rd r s t)

/-- SUB and SUBI (40_arithmetic.md R113, R114): the difference modulo 2^32 and the four flags, C = 1 meaning no borrow
(10_state.md R33; the formulas of Z and V are the spec's decision D2, log 8). -/
def Obligations.SubtractionResult : Prop :=
  ∀ (s : State) (rd rs1 rs2 : RegIdx) (imm : Half) (i : Instr) (w : Word) (named : List RegIdx) (a b r : Word)
    (f : AluFlags),
    a = readReg s .first rs1 →
    (i, w, named, b) ∈
      [(.sub rd rs1 rs2, rrWord rs1 rs2 rd 0x00000041#32, [rd, rs1, rs2], readReg s .second rs2),
       (.subi rd rs1 imm, riWord imm rs1 rd 0x21#32, [rd, rs1], BitVec.ofInt 32 imm.toInt)] →
    (r.toNat : Int) = ((a.toNat : Int) - b.toNat) % 2 ^ 32 →
    (f.c = true ↔ b.toNat ≤ a.toNat) → (f.z = true ↔ r.toNat = 0) → (f.s = true ↔ r.toInt < 0) →
    (f.v = true ↔ a.toInt - b.toInt < -2 ^ 31 ∨ 2 ^ 31 ≤ a.toInt - b.toInt) →
    encode i = w ∧
    (NamesOk s named → DestOk s rd r → ∃ t, exec i s = .next t ∧ RegisterEffect (.flagged rd) f s.bus rd r s t)

/-- MUL (40_arithmetic.md R115): the signed product modulo 2^32, which keeps the low 32 bits by the spec's decision D12
(log 9). -/
def Obligations.MultiplicationResult : Prop :=
  ∀ (s : State) (rd rs1 rs2 : RegIdx) (r : Word),
    r = BitVec.ofInt 32 ((readReg s .first rs1).toInt * (readReg s .second rs2).toInt) →
    encode (.mul rd rs1 rs2) = rrWord rs1 rs2 rd 0x00000081#32 ∧
    (NamesOk s [rd, rs1, rs2] → DestOk s rd r →
      ∃ t, exec (.mul rd rs1 rs2) s = .next t ∧ RegisterEffect (.dest rd) s.sr.flags s.bus rd r s t)

/-- DIV and MOD of a non-negative dividend by a positive divisor (40_arithmetic.md R117, R120): quotient and remainder. -/
def Obligations.DivisionOfNonNegative : Prop :=
  ∀ (s : State) (rd rs1 rs2 : RegIdx) (i : Instr) (base a b r : Word) (p : Prop),
    a = readReg s .first rs1 → b = readReg s .second rs2 → 0 ≤ a.toInt → 0 < b.toInt →
    (i, base, p) ∈
      [(.div rd rs1 rs2, 0x000000C1#32, r.toInt = a.toInt / b.toInt),
       (.mod rd rs1 rs2, 0x00000101#32, r.toInt = a.toInt - b.toInt * (a.toInt / b.toInt))] → p →
    encode i = rrWord rs1 rs2 rd base ∧
    (NamesOk s [rd, rs1, rs2] → DestOk s rd r →
      ∃ t, exec i s = .next t ∧ RegisterEffect (.dest rd) s.sr.flags s.bus rd r s t)

/-- DIV with a negative operand (40_arithmetic.md R117, R118): the quotient rounded as the parameter `div_signed_neg` says,
which the spec leaves open (D13, log 10). -/
def Obligations.DivisionOfNegative : Prop :=
  ∀ (s : State) (rd rs1 rs2 : RegIdx) (a b r : Word),
    a = readReg s .first rs1 → b = readReg s .second rs2 →
    b.toInt ≠ 0 → ¬(a.toInt = -2 ^ 31 ∧ b.toInt = -1) → (a.toInt < 0 ∨ b.toInt < 0) →
    (Config.divRounding = .trunc → r.toInt = a.toInt.sign * b.toInt.sign * (a.toInt.natAbs / b.toInt.natAbs : Nat)) →
    (Config.divRounding = .floor → r.toInt = Int.floor ((a.toInt : ℚ) / b.toInt)) →
    NamesOk s [rd, rs1, rs2] → DestOk s rd r →
      ∃ t, exec (.div rd rs1 rs2) s = .next t ∧ RegisterEffect (.dest rd) s.sr.flags s.bus rd r s t

/-- MOD with a negative operand (40_arithmetic.md R120, R121): a function of the two operands alone, whose result is not
negative; its value is the free parameter `mod_signed_neg` (D14, log 11). -/
def Obligations.ModuloOfNegative : Prop :=
  ∀ (a b : Word), 0 ≤ (modSignedNeg a b).toInt ∧
    ∀ (s : State) (rd rs1 rs2 : RegIdx), a = readReg s .first rs1 → b = readReg s .second rs2 →
      b.toInt ≠ 0 → ¬(a.toInt = -2 ^ 31 ∧ b.toInt = -1) → (a.toInt < 0 ∨ b.toInt < 0) →
      NamesOk s [rd, rs1, rs2] → DestOk s rd (modSignedNeg a b) →
        ∃ t, exec (.mod rd rs1 rs2) s = .next t ∧
          RegisterEffect (.dest rd) s.sr.flags s.bus rd (modSignedNeg a b) s t

/-- The contingent divisions (40_arithmetic.md R123): DIV and MOD by 0 and of the overflow pair, DIVU and MODU by 0 (D15)
complete with a free value in `rd` and change nothing else (D16, log 12). -/
def Obligations.ContingentDivision : Prop :=
  ∀ (s : State) (rd rs1 rs2 : RegIdx) (i : Instr) (a b : Word) (p : Prop),
    a = readReg s .first rs1 → b = readReg s .second rs2 →
    (i, p) ∈
      [(.div rd rs1 rs2, b.toInt = 0 ∨ (a.toInt = -2 ^ 31 ∧ b.toInt = -1)),
       (.mod rd rs1 rs2, b.toInt = 0 ∨ (a.toInt = -2 ^ 31 ∧ b.toInt = -1)),
       (.divu rd rs1 rs2, b.toInt = 0), (.modu rd rs1 rs2, b.toInt = 0)] → p →
    NamesOk s [rd, rs1, rs2] → DestOk s rd (Config.divContingent s.tick) →
      ∃ t, exec i s = .next t ∧
        RegisterEffect (.dest rd) s.sr.flags s.bus rd (Config.divContingent s.tick) s t

/-- DIVU and MODU by a divisor that is not 0 (40_arithmetic.md R119, R122): unsigned quotient and remainder. -/
def Obligations.UnsignedDivision : Prop :=
  ∀ (s : State) (rd rs1 rs2 : RegIdx) (i : Instr) (base a b r : Word) (p : Prop),
    a = readReg s .first rs1 → b = readReg s .second rs2 → b.toNat ≠ 0 →
    (i, base, p) ∈
      [(.divu rd rs1 rs2, 0x00000141#32, r.toNat = a.toNat / b.toNat),
       (.modu rd rs1 rs2, 0x00000181#32, r.toNat = a.toNat - b.toNat * (a.toNat / b.toNat))] → p →
    encode i = rrWord rs1 rs2 rd base ∧
    (NamesOk s [rd, rs1, rs2] → DestOk s rd r →
      ∃ t, exec i s = .next t ∧ RegisterEffect (.dest rd) s.sr.flags s.bus rd r s t)

/-- The laws of the division family (40_arithmetic.md R124, which the spec derives): the unsigned quotient and remainder
make up the dividend, an exact signed division gives it back under either rounding, and DIV and MOD agree with DIVU and
MODU for a non-negative dividend and a positive divisor. Two executions from one state read equal operands, also where a
read is a draw: the model's choice (log 42). -/
def Obligations.DivisionLaws : Prop :=
  ∀ (s t u : State) (rd rs1 rs2 : RegIdx) (a b : Word),
    a = readReg s .first rs1 → b = readReg s .second rs2 → b.toNat ≠ 0 → rd ≠ zeroReg → rd ≠ statusReg →
    (exec (.divu rd rs1 rs2) s = .next t → exec (.modu rd rs1 rs2) s = .next u →
      a.toNat = (t.reg rd).toNat * b.toNat + (u.reg rd).toNat ∧ (u.reg rd).toNat < b.toNat) ∧
    (exec (.div rd rs1 rs2) s = .next t → a.toInt % b.toInt = 0 → ¬(a.toInt = -2 ^ 31 ∧ b.toInt = -1) →
      (t.reg rd).toInt * b.toInt = a.toInt) ∧
    (exec (.div rd rs1 rs2) s = .next t → exec (.divu rd rs1 rs2) s = .next u → 0 ≤ a.toInt → 0 < b.toInt →
      t.reg rd = u.reg rd) ∧
    (exec (.mod rd rs1 rs2) s = .next t → exec (.modu rd rs1 rs2) s = .next u → 0 ≤ a.toInt → 0 < b.toInt →
      t.reg rd = u.reg rd)

/-! ### Logical, shift, compare, extend -/

/-- AND, OR, XOR, NAND, NOR (41_logical.md R131, R133, R135, R137, R138), bit by bit. -/
def Obligations.LogicalRegisterForms : Prop :=
  ∀ (s : State) (rd rs1 rs2 : RegIdx) (i : Instr) (base r : Word) (op : Bool → Bool → Bool),
    (i, base, op) ∈
      [(.and rd rs1 rs2, 0x00004001#32, fun x y => x && y), (.or rd rs1 rs2, 0x00004041#32, fun x y => x || y),
       (.xor rd rs1 rs2, 0x00004081#32, fun x y => x != y), (.nand rd rs1 rs2, 0x000040C1#32, fun x y => !(x && y)),
       (.nor rd rs1 rs2, 0x00004101#32, fun x y => !(x || y))] →
    (∀ k < 32, r.getLsbD k = op ((readReg s .first rs1).getLsbD k) ((readReg s .second rs2).getLsbD k)) →
    encode i = rrWord rs1 rs2 rd base ∧
    (NamesOk s [rd, rs1, rs2] → DestOk s rd r →
      ∃ t, exec i s = .next t ∧ RegisterEffect (.dest rd) s.sr.flags s.bus rd r s t)

/-- ANDI, ORI, XORI (41_logical.md R132, R134, R136), bit by bit; the immediate has zeros above bit 15. -/
def Obligations.LogicalImmediateForms : Prop :=
  ∀ (s : State) (rd rs1 : RegIdx) (imm : Half) (i : Instr) (opc r : Word) (op : Bool → Bool → Bool),
    (i, opc, op) ∈
      [(.andi rd rs1 imm, 0x22#32, fun x y => x && y), (.ori rd rs1 imm, 0x23#32, fun x y => x || y),
       (.xori rd rs1 imm, 0x24#32, fun x y => x != y)] →
    (∀ k < 32, r.getLsbD k = op ((readReg s .first rs1).getLsbD k) (decide (k < 16) && imm.getLsbD k)) →
    encode i = riWord imm rs1 rd opc ∧
    (NamesOk s [rd, rs1] → DestOk s rd r →
      ∃ t, exec i s = .next t ∧ RegisterEffect (.dest rd) s.sr.flags s.bus rd r s t)

/-- LLS, LRS, ARS (42_shift.md R146, R148, R150) by the low five bits of the count register, with the shift functions of
R153. -/
def Obligations.ShiftRegisterForms : Prop :=
  ∀ (s : State) (rd rs1 rs2 : RegIdx) (i : Instr) (base a r : Word) (n : Nat) (p : Prop),
    a = readReg s .first rs1 → n = (readReg s .second rs2).toNat % 32 →
    (i, base, p) ∈
      [(.lls rd rs1 rs2, 0x00008001#32, r.toNat = a.toNat * 2 ^ n % 2 ^ 32),
       (.lrs rd rs1 rs2, 0x00008041#32, r.toNat = a.toNat / 2 ^ n),
       (.ars rd rs1 rs2, 0x00008081#32, r.toInt = a.toInt / 2 ^ n)] → p →
    encode i = rrWord rs1 rs2 rd base ∧
    (NamesOk s [rd, rs1, rs2] → DestOk s rd r →
      ∃ t, exec i s = .next t ∧ RegisterEffect (.dest rd) s.sr.flags s.bus rd r s t)

/-- LLSI, LRSI, ARSI (42_shift.md R147, R149, R151) by the low five bits of the immediate, the others ignored, with the
shift functions of R153. -/
def Obligations.ShiftImmediateForms : Prop :=
  ∀ (s : State) (rd rs1 : RegIdx) (imm : Half) (i : Instr) (opc a r : Word) (n : Nat) (p : Prop),
    a = readReg s .first rs1 → n = imm.toNat % 32 →
    (i, opc, p) ∈
      [(.llsi rd rs1 imm, 0x25#32, r.toNat = a.toNat * 2 ^ n % 2 ^ 32),
       (.lrsi rd rs1 imm, 0x26#32, r.toNat = a.toNat / 2 ^ n),
       (.arsi rd rs1 imm, 0x27#32, r.toInt = a.toInt / 2 ^ n)] → p →
    encode i = riWord imm rs1 rd opc ∧
    (NamesOk s [rd, rs1] → DestOk s rd r →
      ∃ t, exec i s = .next t ∧ RegisterEffect (.dest rd) s.sr.flags s.bus rd r s t)

/-- LSOI (42_shift.md R152): the low halfword of the source above the immediate. -/
def Obligations.ShiftOrImmediate : Prop :=
  ∀ (s : State) (rd rs1 : RegIdx) (imm : Half) (r : Word),
    r.toNat = (readReg s .first rs1).toNat % 2 ^ 16 * 2 ^ 16 + imm.toNat →
    encode (.lsoi rd rs1 imm) = riWord imm rs1 rd 0x28#32 ∧
    (NamesOk s [rd, rs1] → DestOk s rd r →
      ∃ t, exec (.lsoi rd rs1 imm) s = .next t ∧ RegisterEffect (.dest rd) s.sr.flags s.bus rd r s t)

/-- ELT, ELTU, EEQ, ENEQ (43_compare_extend.md R161 to R164): 1 if the comparison holds, else 0. -/
def Obligations.CompareForms : Prop :=
  ∀ (s : State) (rd rs1 rs2 : RegIdx) (i : Instr) (base a b r : Word) (p : Prop),
    a = readReg s .first rs1 → b = readReg s .second rs2 →
    (i, base, p) ∈
      [(.elt rd rs1 rs2, 0x0000C001#32, a.toInt < b.toInt), (.eltu rd rs1 rs2, 0x0000C041#32, a.toNat < b.toNat),
       (.eeq rd rs1 rs2, 0x0000C081#32, a = b), (.eneq rd rs1 rs2, 0x0000C0C1#32, a ≠ b)] →
    (p ∧ r = 1#32 ∨ ¬p ∧ r = 0#32) →
    encode i = rrWord rs1 rs2 rd base ∧
    (NamesOk s [rd, rs1, rs2] → DestOk s rd r →
      ∃ t, exec i s = .next t ∧ RegisterEffect (.dest rd) s.sr.flags s.bus rd r s t)

/-- EXBW (43_compare_extend.md R166): the low byte of the source as a signed number. -/
def Obligations.ExtendByte : Prop :=
  ∀ (s : State) (rd rs1 : RegIdx) (r : Word),
    r.toInt = ((readReg s .first rs1).toNat : Int).bmod (2 ^ 8) →
    encode (.exbw rd rs1) = rtWord rd rs1 0x00000080#32 ∧
    (NamesOk s [rd, rs1] → DestOk s rd r →
      ∃ t, exec (.exbw rd rs1) s = .next t ∧ RegisterEffect (.dest rd) s.sr.flags s.bus rd r s t)

/-- EXHW (43_compare_extend.md R167): the low halfword of the source as a signed number. Bit 11 of its word is the spec's
reconstruction (log 34). -/
def Obligations.ExtendHalfword : Prop :=
  ∀ (s : State) (rd rs1 : RegIdx) (r : Word),
    r.toInt = ((readReg s .first rs1).toNat : Int).bmod (2 ^ 16) →
    encode (.exhw rd rs1) = rtWord rd rs1 0x00000880#32 ∧
    (NamesOk s [rd, rs1] → DestOk s rd r →
      ∃ t, exec (.exhw rd rs1) s = .next t ∧ RegisterEffect (.dest rd) s.sr.flags s.bus rd r s t)

/-! ### Loads and stores -/

/-- Effective addresses (20_memory.md R57; the wrap is the spec's decision D21, log 24) and their rounding down (R56). -/
def Obligations.AddressFormation : Prop :=
  ∀ (s : State) (r : RegIdx) (off : Half),
    ((loadAddress s r off).toNat : Int) = ((readReg s .first r).toNat + off.toInt) % 2 ^ 32 ∧
    ((storeAddress s r off).toNat : Int) = ((readReg s .first r).toNat + off.toInt) % 2 ^ 32 ∧
    ∀ ea : Word, (align2 ea).toNat = ea.toNat / 2 * 2 ∧ (align4 ea).toNat = ea.toNat / 4 * 4

/-- LB, LH, LW (44_load_store.md R177, R178, R179): the sign-extended byte, halfword or word at the rounded address, big
endian (20_memory.md R55, R58), with one bus transaction (R183); the wrap of the address is the spec's decision D21 (log 24)
and the byte of a device is a free value (log 6). That the transaction is the signed read of the width, for LW the signed
word read, is the model's choice (20_memory.md R61 only derives which instruction issues which mode; log 32). -/
def Obligations.LoadResult : Prop :=
  ∀ (s : State) (rd rs1 : RegIdx) (off : Half) (i : Instr) (opc : Word) (m : BusMode) (ea ad r : Word) (p : Prop),
    (ea.toNat : Int) = ((readReg s .first rs1).toNat + off.toInt) % 2 ^ 32 →
    (i, opc, m, p) ∈
      [(.lb rd off rs1, 0x02#32, .signedByteRead,
        ad = ea ∧ ∃ b0, dataByte s ad.toNat = some b0 ∧ r.toInt = b0.toInt),
       (.lh rd off rs1, 0x03#32, .signedHalfRead,
        ad.toNat = ea.toNat / 2 * 2 ∧ ∃ b0 b1, dataByte s ad.toNat = some b0 ∧ dataByte s (ad.toNat + 1) = some b1 ∧
          r.toInt = b0.toInt * 2 ^ 8 + b1.toNat),
       (.lw rd off rs1, 0x04#32, .signedWordRead,
        ad.toNat = ea.toNat / 4 * 4 ∧ ∃ b0 b1 b2 b3, dataByte s ad.toNat = some b0 ∧
          dataByte s (ad.toNat + 1) = some b1 ∧ dataByte s (ad.toNat + 2) = some b2 ∧
          dataByte s (ad.toNat + 3) = some b3 ∧
          r.toNat = b0.toNat * 2 ^ 24 + b1.toNat * 2 ^ 16 + b2.toNat * 2 ^ 8 + b3.toNat)] → p →
    encode i = riWord off rs1 rd opc ∧
    (NamesOk s [rd, rs1] → DestOk s rd r →
      ∃ t, exec i s = .next t ∧
        RegisterEffect (.load rd) s.sr.flags (some { mode := m, addr := ad, dataOut := none }) rd r s t)

/-- SB, SH, SW to plain memory (44_load_store.md R180, R181, R182): the low byte, halfword or word of the data register at
the rounded address, big endian (20_memory.md R59); no other byte and no register changes. The wrap of the address is the spec's decision D21
(log 24); which bus mode each store is announced with is derived in 20_memory.md R61 and taken by the model (log 32). -/
def Obligations.StoreResult : Prop :=
  ∀ (s : State) (rd rs1 : RegIdx) (off : Half) (i : Instr) (opc : Word) (m : BusMode) (ad v : Word) (bs : List Byte),
    v = readReg s .second rs1 →
    (i, opc, m, ad, bs) ∈
      [(.sb off rd rs1, 0x05#32, .byteWrite, storeAddress s rd off, [v.extractLsb' 0 8]),
       (.sh off rd rs1, 0x06#32, .halfWrite, align2 (storeAddress s rd off), [v.extractLsb' 8 8, v.extractLsb' 0 8]),
       (.sw off rd rs1, 0x07#32, .wordWrite, align4 (storeAddress s rd off),
        [v.extractLsb' 24 8, v.extractLsb' 16 8, v.extractLsb' 8 8, v.extractLsb' 0 8])] →
    encode i = riWord off rs1 rd opc ∧
    (NamesOk s [rd, rs1] → (∀ k < bs.length, regionAt s.map (ad.toNat + k) = some .ram) →
      ∃ t d, exec i s = .next t ∧
        StoreEffect ad.toNat bs { mode := m, addr := ad, dataOut := some d } s t ∧ (m = .wordWrite → d = v))

/-- SB, SH, SW where the platform backs every byte, some of them as a device: the store completes, the bytes of plain
memory change and a device's state is no part of the machine (20_memory.md R63, R67; 44_load_store.md R183; logs 6, 32). -/
def Obligations.StoreToDevice : Prop :=
  ∀ (s : State) (rd rs1 : RegIdx) (off : Half) (i : Instr) (m : BusMode) (ad v d : Word) (bs : List Byte),
    v = readReg s .second rs1 →
    (i, m, ad, bs, d) ∈
      [(.sb off rd rs1, .byteWrite, storeAddress s rd off, storeBytes1 v,
        Config.storeLanes (storeAddress s rd off) 1 v),
       (.sh off rd rs1, .halfWrite, align2 (storeAddress s rd off), storeBytes2 v,
        Config.storeLanes (align2 (storeAddress s rd off)) 2 v),
       (.sw off rd rs1, .wordWrite, align4 (storeAddress s rd off), storeBytes4 v, v)] →
    NamesOk s [rd, rs1] → (∀ k < bs.length, regionAt s.map (ad.toNat + k) ≠ none) →
      ∃ t, exec i s = .next t ∧ StoreEffect ad.toNat bs { mode := m, addr := ad, dataOut := some d } s t

/-- An access that touches a byte the platform does not back stops the run, for each of the six instructions
(20_memory.md R58, R59, R67; the spec's decision D22, log 5). -/
def Obligations.UnbackedAccessStops : Prop :=
  ∀ (s : State) (rd rs1 : RegIdx) (off : Half) (i : Instr) (ad : Word) (n : Nat),
    (i, ad, n) ∈
      [(.lb rd off rs1, loadAddress s rs1 off, 1), (.lh rd off rs1, align2 (loadAddress s rs1 off), 2),
       (.lw rd off rs1, align4 (loadAddress s rs1 off), 4), (.sb off rd rs1, storeAddress s rd off, 1),
       (.sh off rd rs1, align2 (storeAddress s rd off), 2), (.sw off rd rs1, align4 (storeAddress s rd off), 4)] →
    NamesOk s [rd, rs1] → (∃ k < n, regionAt s.map (ad.toNat + k) = none) → exec i s = .fault .dataNotBacked

/-- A load returns what the store of its width just before wrote: LW after SW, LH after SH, LB after SB, and LH and LB see
the halves and the bytes of a word store in big-endian order (20_memory.md R55, R69, which the spec derives). -/
def Obligations.LoadAfterStore : Prop :=
  ∀ (s t u : State) (off off' : Half) (rd rs1 rd' rs' : RegIdx) (d ad : Word),
    d = readReg s .second rs1 → rd' ≠ zeroReg → rd' ≠ statusReg →
    (ad = align4 (storeAddress s rd off) → (∀ k < 4, regionAt s.map (ad.toNat + k) = some .ram) →
      exec (.sw off rd rs1) s = .next t →
      (align4 (loadAddress t rs' off') = ad → exec (.lw rd' off' rs') t = .next u → u.reg rd' = d) ∧
      (∀ h < 2, (align2 (loadAddress t rs' off')).toNat = ad.toNat + 2 * h → exec (.lh rd' off' rs') t = .next u →
        (u.reg rd').toInt = ((d.toNat / 2 ^ (16 - 16 * h) : Nat) : Int).bmod (2 ^ 16)) ∧
      (∀ k < 4, (loadAddress t rs' off').toNat = ad.toNat + k → exec (.lb rd' off' rs') t = .next u →
        (u.reg rd').toInt = ((d.toNat / 2 ^ (24 - 8 * k) : Nat) : Int).bmod (2 ^ 8))) ∧
    (ad = align2 (storeAddress s rd off) → (∀ k < 2, regionAt s.map (ad.toNat + k) = some .ram) →
      exec (.sh off rd rs1) s = .next t → align2 (loadAddress t rs' off') = ad → exec (.lh rd' off' rs') t = .next u →
      (u.reg rd').toInt = (d.toNat : Int).bmod (2 ^ 16)) ∧
    (ad = storeAddress s rd off → regionAt s.map ad.toNat = some .ram →
      exec (.sb off rd rs1) s = .next t → loadAddress t rs' off' = ad → exec (.lb rd' off' rs') t = .next u →
      (u.reg rd').toInt = (d.toNat : Int).bmod (2 ^ 8))

/-- The delayed-load slot (70_reset_and_hazards.md R280): right after a load every read of the loaded register is a draw
(D25, log 13) and every other register reads as it is; one instruction later the slot is closed, unless that one loads the
same register. -/
def Obligations.DelayedLoadSlot : Prop :=
  ∀ (s t : State) (rd rs1 : RegIdx) (off : Half) (i : Instr),
    i ∈ [.lb rd off rs1, .lh rd off rs1, .lw rd off rs1] → rd ≠ zeroReg → exec i s = .next t →
    (∀ p, readReg t p rd = Config.loadSlot t.tick p) ∧
    (∀ p j, j ≠ rd → j ≠ statusReg → readReg t p j = t.reg j) ∧
    ∀ (k : Instr) (u : State), exec k t = .next u → k.loadDest ≠ some rd → rd ≠ statusReg →
      ∀ p, readReg u p rd = u.reg rd

/-- The signals of the nine access modes (20_memory.md R61, Table 4): R/W, width, sign extension. -/
def Obligations.BusModeTable : Prop :=
  ∀ row ∈ [(BusMode.signedByteRead, 0#1, 0b00#2, 1#1), (.signedHalfRead, 0#1, 0b01#2, 1#1),
      (.signedWordRead, 0#1, 0b11#2, 1#1), (.unsignedByteRead, 0#1, 0b00#2, 0#1),
      (.unsignedHalfRead, 0#1, 0b01#2, 0#1), (.unsignedWordRead, 0#1, 0b11#2, 0#1),
      (.byteWrite, 1#1, 0b00#2, 0#1), (.halfWrite, 1#1, 0b01#2, 0#1), (.wordWrite, 1#1, 0b11#2, 0#1)],
    busRw row.1 = row.2.1 ∧ busWmode row.1 = row.2.2.1 ∧ busEmode row.1 = row.2.2.2

/-! ### Control transfer -/

/-- BRZ and BRNZ (45_control_transfer.md R196, R198): to the next instruction plus the offset when the condition holds,
else to the next instruction. -/
def Obligations.BranchResult : Prop :=
  ∀ (s : State) (rs1 : RegIdx) (off : Half) (i : Instr) (opc a target : Word) (p : Prop),
    a = readReg s .first rs1 →
    (i, opc, p) ∈ [(.brz rs1 off, 0x09#32, a.toNat = 0), (.brnz rs1 off, 0x0A#32, a.toNat ≠ 0)] →
    (p ∧ (target.toNat : Int) = (s.pc.toNat + 4 + off.toInt) % 2 ^ 32 ∨
      ¬p ∧ target.toNat = (s.pc.toNat + 4) % 2 ^ 32) →
    encode i = brWord off rs1 opc ∧
    (NamesOk s [rs1] → ∃ t, exec i s = .next t ∧ JumpEffect target s t)

/-- JP and JPL (45_control_transfer.md R200, R202): to the next instruction plus the 26-bit signed offset; JPL leaves the
address of the next instruction in GPR3. -/
def Obligations.JumpResult : Prop :=
  ∀ (s : State) (off : BitVec 26) (target : Word),
    (target.toNat : Int) = (s.pc.toNat + 4 + off.toInt) % 2 ^ 32 →
    encode (.jp off) = jpWord off 0x0B#32 ∧ encode (.jpl off) = jpWord off 0x0C#32 ∧
    (∃ t, exec (.jp off) s = .next t ∧ JumpEffect target s t) ∧
    ∃ t, exec (.jpl off) s = .next t ∧ LinkEffect target s t

/-- JPR (45_control_transfer.md R204): to the register's value, all 32 bits. The place of `rs1` in bits 10:6 of its word is
the spec's own reading (30_encoding.md R86, C14; log 34). -/
def Obligations.JumpRegister : Prop :=
  ∀ (s : State) (rs1 : RegIdx),
    encode (.jpr rs1) = jprWord rs1 0x0E#32 ∧
    (NamesOk s [rs1] → ∃ t, exec (.jpr rs1) s = .next t ∧ JumpEffect (readReg s .first rs1) s t)

/-- JPRL (45_control_transfer.md R206): to the register's value, read before GPR3 takes the link, also when the register
is GPR3 (the spec's decision D19, log 22). The place of `rs1` in bits 10:6 of its word is the spec's own reading
(30_encoding.md R86, C14; log 34). -/
def Obligations.JumpRegisterLink : Prop :=
  ∀ (s : State) (rs1 : RegIdx),
    encode (.jprl rs1) = jprWord rs1 0x0F#32 ∧
    (NamesOk s [rs1] → ∃ t, exec (.jprl rs1) s = .next t ∧ LinkEffect (readReg s .first rs1) s t)

/-! ### System -/

/-- NOP (46_system.md R216): the all-zero word; pc advances, `nop_run` counts to 2, and nothing a program can read
changes. -/
def Obligations.NopResult : Prop :=
  encode .nop = 0x00000000#32 ∧
  ∀ s : State, ∃ t, exec .nop s = .next t ∧ t.pc.toNat = (s.pc.toNat + 4) % 2 ^ 32 ∧
    t.trk.nopRun.val = min (s.trk.nopRun.val + 1) 2 ∧ t = { s with pc := t.pc, trk := t.trk } ∧
    t.trk = s.trk.after .nop s.sr

/-- RETI (46_system.md R218): EIE and IIE set, user mode, pc from GPR2, everything else kept; the same in every mode (the
spec's decision D27, log 29). The change counts at once (the model's field `srDirect`, log 18). -/
def Obligations.ReturnFromInterrupt : Prop :=
  encode .reti = 0x00000040#32 ∧
  ∀ s : State, ∃ t, exec .reti s = .next t ∧ t.pc = readReg s .first returnReg ∧
    t.sr.eie = true ∧ t.sr.iie = true ∧ t.sr.mode = 0b01#2 ∧ t.sr.flags = s.sr.flags ∧
    (∀ j, j ≠ statusReg → t.reg j = s.reg j) ∧ SameMemory s t ∧ t.bus = s.bus ∧ Untouched s t ∧
    t.trk = { s.trk.after .plain s.sr with srDirect := true }

/-- TRAP with internal interrupts permitted (60_exceptions.md R241): EIE, IIE and MODE cleared, GPR2 takes the address of
the TRAP, pc goes to 0x0FFE0800 plus the offset. It is stated outside the window of 70_reset_and_hazards.md R284, and inside it
where the hardware itself changed the fields after the write of GPR1 (the model's reading, DEDUCED: log 18). -/
def Obligations.TrapTaken : Prop :=
  ∀ (s : State) (off : BitVec 26),
    encode (.trap off) = jpWord off 0x0D#32 ∧
    (s.sr.iie = true → OutsideStatusWindow s → off.toNat < 2 ^ 25 →
      ∃ t, exec (.trap off) s = .next t ∧ t.pc.toNat = (0x0FFE0800 + off.toNat) % 2 ^ 32 ∧
        EntryEffect t.pc s t ∧ Untouched s t ∧ t.trk = { s.trk.after .plain s.sr with srDirect := true })

/-- Every TRAP, also inside the window after a write of GPR1: it tests IIE, in the window the old or the new one
(70_reset_and_hazards.md R284, D7, log 18), and is taken, ignored, or refused when it would be taken with bit 25 of the
offset set (46_system.md R221, D17, log 21). -/
def Obligations.TrapOutcomes : Prop :=
  ∀ (s : State) (off : BitVec 26), ∃ tested : Bool,
    (tested = s.sr.iie ∨ (s.trk.sinceSrWrite ≠ .far ∧ s.trk.srDirect = false ∧ tested = s.trk.srOld.iie)) ∧
    (tested = false → ∃ t, exec (.trap off) s = .next t ∧ JumpEffect (s.pc + 4#32) s t) ∧
    (tested = true → off.toNat < 2 ^ 25 → ∃ t, exec (.trap off) s = .next t ∧
      EntryEffect (0x0FFE0800#32 + off.setWidth 32) s t) ∧
    (tested = true → 2 ^ 25 ≤ off.toNat → exec (.trap off) s = .refused .trapOffsetExtension)

/-! ### Interrupts, reset and the step -/

/-- The external interrupt entry (60_exceptions.md R243, R244): at a boundary where RESET is 0, EXTINT_IN is 1, EIE is 1 and
the wait is over, whatever IIE and the mode are, the step is the entry: the address of the next instruction to GPR2, pc at
0x0FFE0400, EXTCATCH_OUT emitted, `nop_run` 0 and the other trackers of the spec kept (D26, log 27). In the window of
70_reset_and_hazards.md R284 the EIE is the new or the old one (D7; a hardware change in the window counts at once, log 18).
The wait is the model's form of an open delay (D24, log 26). -/
def Obligations.ExternalEntry : Prop :=
  ∀ s : State, s.pinsNow.reset = false → RequestStands s → extWaitNow s.openStep = 0 →
    ∃ t, step s = .next t ∧ EntryEffect 0x0FFE0400#32 s.openStep t ∧ t.extcatch = true ∧ t.extWait = none ∧
      t.trk = { s.trk with nopRun := 0, srDirect := true }

/-- An external interrupt is never taken at a boundary where the acceptance condition does not hold (60_exceptions.md R243):
where RESET is 1, where EXTINT_IN is 0, where EIE is 0 outside the window of 70_reset_and_hazards.md R284, where the old and
the new EIE are both 0 inside it, or where the one that the free choice takes there is 0 (D7). That a hardware change inside
the window counts at once is the model's reading (DEDUCED: log 18). -/
def Obligations.ExternalMasked : Prop :=
  ∀ s : State,
    (s.pinsNow.reset = true ∨ s.pinsNow.extint = false ∨ (s.sr.eie = false ∧ OutsideStatusWindow s) ∨
      (s.sr.eie = false ∧ s.trk.srOld.eie = false) ∨ ¬RequestStands s) →
    ∀ t, step s = .next t → t.extcatch = false

/-- A request that keeps standing is taken: if the acceptance condition holds at each of the boundaries that the wait
counts, the step after them is the external interrupt entry and none before it is (60_exceptions.md R243, liveness; D24, log
26). The condition is R243's: EXTINT_IN = 1 and EIE = 1, in the window of R284 the new or the old EIE (D7, log 18). -/
def Obligations.ExternalLiveness : Prop :=
  ∀ (n : Nat) (run : Nat → State), extWaitNow (run 0).openStep = n →
    (∀ k ≤ n, (run k).pinsNow.reset = false ∧ RequestStands (run k)) →
    (∀ k < n, step (run k) = .next (run (k + 1))) →
    (∀ k, 0 < k → k ≤ n → (run k).extcatch = false) ∧
    ∃ t, step (run n) = .next t ∧ t.extcatch = true ∧ t.pc = 0x0FFE0400#32 ∧ t.reg returnReg = (run n).pc

/-- A step with RESET = 1 (70_reset_and_hazards.md R270, R271, R272): every register 0, pc at the reset vector, the trackers
at their reset values, whatever the core was doing; memories stay (D28, log 28). -/
def Obligations.ResetStep : Prop :=
  ∀ s : State, s.pinsNow.reset = true →
    ∃ t, step s = .next t ∧ (∀ j, t.reg j = 0#32) ∧ t.sr = State.reset.sr ∧ t.pc = 0x0FFE0000#32 ∧
      t.trk = State.reset.trk ∧ t.dmem = s.dmem ∧ t.imem = s.imem ∧ t.map = s.map ∧ t.pins = s.pins.tail ∧
      t.extcatch = false ∧ t.bus = none ∧ t.extWait = none

/-- The state after reset (10_state.md R43, R41): the values the spec gives. The entry address is the spec's decision D28
(log 28). -/
def Obligations.ResetValues : Prop :=
  (∀ j, State.reset.reg j = 0#32) ∧ State.reset.pc = 0x0FFE0000#32 ∧ State.reset.sr.mode = 0b00#2 ∧
    State.reset.sr.eie = false ∧ State.reset.sr.iie = false ∧
    State.reset.sr.flags = { c := false, z := false, s := false, v := false } ∧
    State.reset.trk.loadShadow = none ∧ State.reset.trk.nopRun = 0 ∧ State.reset.trk.sinceSrWrite = .far ∧
    State.reset.trk.sinceFlagWrite = .far ∧ State.reset.extcatch = false

/-- A step that takes no interrupt and no reset runs the instruction its fetch decodes to (60_exceptions.md R266): the step
is that instruction's meaning on the state with the input sample taken and the wait of a standing request counted (logs 18,
25, 26, 31). -/
def Obligations.StepRunsTheDecodedInstruction : Prop :=
  ∀ (s : State) (wait : Option Nat) (b0 b1 b2 b3 : Byte) (i : Instr), RunsInstruction s wait →
    s.pc.toNat % 4 = 0 →
    lookupCell s.imem s.pc.toNat = some b0 → lookupCell s.imem (s.pc.toNat + 1) = some b1 →
    lookupCell s.imem (s.pc.toNat + 2) = some b2 → lookupCell s.imem (s.pc.toNat + 3) = some b3 →
    decodeBytes [b0, b1, b2, b3] = .ok i → i.wellFormed = true →
    step s = exec i { s.openStep with extWait := wait }

/-- Every fetch (20_memory.md R60, R66): from an aligned pc the word the platform holds there, or a stop where it holds
none (D22, log 2); from another pc what the open parameter FETCH_MISALIGN says (D9, log 19). -/
def Obligations.FetchOutcomes : Prop :=
  ∀ s : State,
    (s.pc.toNat % 4 = 0 → ∀ w, instrWordAt s.imem s.pc.toNat = some w → fetch s = .word w) ∧
    (s.pc.toNat % 4 = 0 → instrWordAt s.imem s.pc.toNat = none → fetch s = .fault .fetchNotBacked) ∧
    (s.pc.toNat % 4 ≠ 0 → Config.fetchMisalign = .refuse → fetch s = .refused .misalignedFetch) ∧
    (s.pc.toNat % 4 ≠ 0 → Config.fetchMisalign = .roundDown → ∀ w,
      instrWordAt s.imem (s.pc.toNat / 4 * 4) = some w → fetch s = .word w) ∧
    (s.pc.toNat % 4 ≠ 0 → Config.fetchMisalign = .roundDown →
      instrWordAt s.imem (s.pc.toNat / 4 * 4) = none → fetch s = .fault .fetchNotBacked) ∧
    ∀ (f : Fault) (r : Refusal), (fetch s = .fault f → runInstruction s = .fault f) ∧
      (fetch s = .refused r → runInstruction s = .refused r)

/-- What `withFetchWord` places is what the next fetch reads, and no other instruction byte changes (20_memory.md R55,
R60; D32, log 39; the loading is log 1). -/
def Obligations.PlacedWordIsFetched : Prop :=
  ∀ (s : State) (w : Nat), s.pc.toNat % 4 = 0 →
    fetch (s.withFetchWord 32 w) = .word (BitVec.ofNat 32 w) ∧
    (∀ a, a < s.pc.toNat ∨ s.pc.toNat + 4 ≤ a → lookupCell (s.withFetchWord 32 w).imem a = lookupCell s.imem a) ∧
    s.withFetchWord 32 w = { s with imem := (s.withFetchWord 32 w).imem } ∧
    (s.imem.wf = true → (s.withFetchWord 32 w).imem.wf = true)

/-! ### The whole machine -/

/-- The invariant of a run is kept by every step: a legal mode (10_state.md R36), both memories in their canonical form, the
trackers consistent with the two-NOP rule (R41; 70_reset_and_hazards.md R283 to R285). -/
def Obligations.RunInvariantKept : Prop :=
  ∀ s t : State, RunInv s → step s = .next t → RunInv t

/-- The invariant of a run holds right after reset (10_state.md R43). -/
def Obligations.RunInvariantAtReset : Prop := RunInv State.reset

/-- The parameters of a run are constant: no step changes the instruction memory or the platform's map, and a step takes
one input sample (10_state.md R44; 20_memory.md R54, R73; D23, logs 25, 40). -/
def Obligations.ParametersAreConstant : Prop :=
  ∀ s t : State, step s = .next t → t.imem = s.imem ∧ t.map = s.map ∧ t.pins = s.pins.tail

/-- The only ways out of user mode (60_exceptions.md R256, which the spec derives): from user mode a step leads to user mode
or, to kernel mode, by reset, by the external interrupt entry or by a TRAP at its vector; and only RETI sets EIE or IIE. -/
def Obligations.UserModeCannotRaisePrivilege : Prop :=
  ∀ s t : State, s.sr.mode = 0b01#2 → step s = .next t →
    (t.sr.mode = 0b01#2 ∨
      (t.sr.mode = 0b00#2 ∧
        ((s.pinsNow.reset = true ∧ t.pc = 0x0FFE0000#32) ∨ (t.extcatch = true ∧ t.pc = 0x0FFE0400#32) ∨
          ∃ w off, fetch s = .word w ∧ decode w = .ok (.trap off) ∧ t.reg returnReg = s.pc ∧
            t.pc = 0x0FFE0800#32 + off.setWidth 32))) ∧
    ((t.sr.eie = true ∧ s.sr.eie = false) ∨ (t.sr.iie = true ∧ s.sr.iie = false) →
      ∃ w, fetch s = .word w ∧ decode w = .ok .reti)

/-- Nothing but a read of GPR1 depends on the flags (10_state.md R32): an instruction none of whose source operands is GPR1,
also one with destination GPR1, does the same whatever the flags are, writes the same flags if it is ADD, ADDI, SUB or SUBI,
and else leaves them as they were. The two executions compared start with equal ticks, and that their draws (a division by 0,
a read in the delayed-load slot, a device byte) are then equal is the model's choice and no promise of the spec (log 42). -/
def Obligations.FlagsDoNotMatter : Prop :=
  ∀ (i : Instr) (s : State) (f : AluFlags), statusReg ∉ i.sources →
    exec i (s.setFlags f) =
      (match exec i s with
        | .next t => .next (if i.writesFlags then t else t.setFlags f)
        | .fault e => .fault e
        | .refused r => .refused r)

/-- What no instruction changes beyond its own operands (10_state.md R21 to R25, R32; 20_memory.md R53): a register but its
destination, GPR1, the GPR2 of a TRAP and the GPR3 of JPL and JPRL; the flags, but for ADD, ADDI, SUB, SUBI; EIE, IIE and
MODE, but for a destination GPR1, RETI and TRAP; data memory, but for SB, SH, SW; the bus, but for loads and stores. -/
def Obligations.InstructionFrame : Prop :=
  ∀ (i : Instr) (s t : State), exec i s = .next t →
    (∀ j, j ≠ statusReg → i.destOperand ≠ some j →
      (j = returnReg → ∀ off, i ≠ .trap off) → (j = linkReg → (∀ off, i ≠ .jpl off) ∧ ∀ rs1, i ≠ .jprl rs1) →
      t.reg j = s.reg j) ∧
    (i.writesFlags = false → t.sr.flags = s.sr.flags) ∧
    (i.destOperand ≠ some statusReg → i ≠ .reti → (∀ off, i ≠ .trap off) →
      t.sr.eie = s.sr.eie ∧ t.sr.iie = s.sr.iie ∧ t.sr.mode = s.sr.mode) ∧
    (i.stores = false → t.dmem = s.dmem) ∧
    (i.stores = false → i.loadDest = none → t.bus = s.bus) ∧
    Untouched s t

end Statements
end

