-- ==== Sys2Proof/Laws/Encoding.lean ====
section
/-!
SUPPORT. The fields of an encoded word: its value as a number, what the decoder's field extractions read from it, and the
word as the instruction rules write it; one lemma of each for each format.
-/

namespace Sys2Proof

theorem toNat_append_add {n m : Nat} (x : BitVec n) (y : BitVec m) :
    (x ++ y).toNat = x.toNat * 2 ^ m + y.toNat := by
  rw [BitVec.toNat_append, Nat.shiftLeft_eq, ← Nat.shiftLeft_eq, Nat.shiftLeft_add_eq_or_of_lt y.isLt]

theorem encodeRR_toNat (f : BitVec 11) (rd rs1 rs2 : RegIdx) :
    (encodeRR f rd rs1 rs2).toNat =
      rs1.toNat * 2 ^ 27 + rs2.toNat * 2 ^ 22 + rd.toNat * 2 ^ 17 + f.toNat * 2 ^ 6 + 1 := by
  simp only [encodeRR, toNat_append_add, BitVec.toNat_ofNat]
  omega

theorem encodeRI_toNat (op : BitVec 6) (imm : Half) (hi lo : RegIdx) :
    (encodeRI op imm hi lo).toNat = imm.toNat * 2 ^ 16 + hi.toNat * 2 ^ 11 + lo.toNat * 2 ^ 6 + op.toNat := by
  simp only [encodeRI, toNat_append_add]
  omega

theorem encodeJP_toNat (op : BitVec 6) (off : BitVec 26) :
    (encodeJP op off).toNat = off.toNat * 2 ^ 6 + op.toNat := by
  simp only [encodeJP, toNat_append_add]

theorem encodeLow_toNat (op : BitVec 6) (lo : BitVec 5) : (encodeLow op lo).toNat = lo.toNat * 2 ^ 6 + op.toNat := by
  simp only [encodeLow, toNat_append_add, BitVec.toNat_ofNat]
  omega

theorem encodeRT_toNat (f : BitVec 11) (rd rs1 : RegIdx) :
    (encodeRT f rd rs1).toNat = rd.toNat * 2 ^ 27 + rs1.toNat * 2 ^ 22 + f.toNat * 2 ^ 11 + 128 := by
  simp only [encodeRT, toNat_append_add, BitVec.toNat_ofNat]
  omega

/-- A field of a word as a number. -/
theorem extract_toNat (w : Word) (lo len : Nat) : (w.extractLsb' lo len).toNat = w.toNat / 2 ^ lo % 2 ^ len := by
  rw [BitVec.extractLsb'_toNat, Nat.shiftRight_eq_div_pow]

/-- A word is put together again from its four bytes. -/
theorem wordOfBytes_toNat (b0 b1 b2 b3 : Byte) :
    (wordOfBytes b0 b1 b2 b3).toNat = b0.toNat * 2 ^ 24 + b1.toNat * 2 ^ 16 + b2.toNat * 2 ^ 8 + b3.toNat := by
  simp only [wordOfBytes, toNat_append_add]
  omega

/-! ### What the decoder reads from an encoded word -/

theorem encodeRR_fields (f : BitVec 11) (rd rs1 rs2 : RegIdx) :
    (encodeRR f rd rs1 rs2).extractLsb' 27 5 = rs1 ∧ (encodeRR f rd rs1 rs2).extractLsb' 22 5 = rs2 ∧
    (encodeRR f rd rs1 rs2).extractLsb' 17 5 = rd ∧ (encodeRR f rd rs1 rs2).extractLsb' 6 11 = f ∧
    (encodeRR f rd rs1 rs2).extractLsb' 0 6 = 1#6 := by
  refine ⟨?_, ?_, ?_, ?_, ?_⟩ <;> apply BitVec.eq_of_toNat_eq <;> rw [extract_toNat, encodeRR_toNat] <;> simp <;> omega

theorem encodeRI_fields (op : BitVec 6) (imm : Half) (hi lo : RegIdx) :
    (encodeRI op imm hi lo).extractLsb' 16 16 = imm ∧ (encodeRI op imm hi lo).extractLsb' 11 5 = hi ∧
    (encodeRI op imm hi lo).extractLsb' 6 5 = lo ∧ (encodeRI op imm hi lo).extractLsb' 0 6 = op := by
  refine ⟨?_, ?_, ?_, ?_⟩ <;> apply BitVec.eq_of_toNat_eq <;> rw [extract_toNat, encodeRI_toNat] <;> simp <;> omega

theorem encodeJP_fields (op : BitVec 6) (off : BitVec 26) :
    (encodeJP op off).extractLsb' 6 26 = off ∧ (encodeJP op off).extractLsb' 0 6 = op := by
  refine ⟨?_, ?_⟩ <;> apply BitVec.eq_of_toNat_eq <;> rw [extract_toNat, encodeJP_toNat] <;> simp <;> omega

theorem encodeLow_fields (op : BitVec 6) (lo : BitVec 5) :
    (encodeLow op lo).extractLsb' 11 21 = 0#21 ∧ (encodeLow op lo).extractLsb' 6 5 = lo ∧
    (encodeLow op lo).extractLsb' 0 6 = op := by
  refine ⟨?_, ?_, ?_⟩ <;> apply BitVec.eq_of_toNat_eq <;> rw [extract_toNat, encodeLow_toNat] <;> simp <;> omega

theorem encodeRT_fields (f : BitVec 11) (rd rs1 : RegIdx) :
    (encodeRT f rd rs1).extractLsb' 27 5 = rd ∧ (encodeRT f rd rs1).extractLsb' 22 5 = rs1 ∧
    (encodeRT f rd rs1).extractLsb' 11 11 = f ∧ (encodeRT f rd rs1).extractLsb' 6 5 = 2#5 ∧
    (encodeRT f rd rs1).extractLsb' 0 6 = 0#6 := by
  refine ⟨?_, ?_, ?_, ?_, ?_⟩ <;> apply BitVec.eq_of_toNat_eq <;> rw [extract_toNat, encodeRT_toNat] <;> simp <;> omega

/-! ### The word as the instruction rules write it -/

theorem encodeRR_eq (f : BitVec 11) (rd rs1 rs2 : RegIdx) {base : Word} (h : base = 0#15 ++ f ++ 1#6) :
    encodeRR f rd rs1 rs2 = rrWord rs1 rs2 rd base := by
  subst h
  refine BitVec.eq_of_getLsbD_eq fun k hk => ?_
  simp only [encodeRR, rrWord, BitVec.getLsbD_append, BitVec.getLsbD_or, BitVec.getLsbD_shiftLeft,
    BitVec.getLsbD_setWidth]
  interval_cases k <;> simp

theorem encodeRI_eq (op : BitVec 6) (imm : Half) (hi lo : RegIdx) {base : Word} (h : base = 0#26 ++ op) :
    encodeRI op imm hi lo = riWord imm hi lo base := by
  subst h
  refine BitVec.eq_of_getLsbD_eq fun k hk => ?_
  simp only [encodeRI, riWord, BitVec.getLsbD_append, BitVec.getLsbD_or, BitVec.getLsbD_shiftLeft,
    BitVec.getLsbD_setWidth]
  interval_cases k <;> simp

theorem encodeRI_eq_br (op : BitVec 6) (off : Half) (rs1 : RegIdx) {base : Word} (h : base = 0#26 ++ op) :
    encodeRI op off rs1 0 = brWord off rs1 base := by
  subst h
  refine BitVec.eq_of_getLsbD_eq fun k hk => ?_
  simp only [encodeRI, brWord, BitVec.getLsbD_append, BitVec.getLsbD_or, BitVec.getLsbD_shiftLeft,
    BitVec.getLsbD_setWidth]
  interval_cases k <;> simp

theorem encodeJP_eq (op : BitVec 6) (off : BitVec 26) {base : Word} (h : base = 0#26 ++ op) :
    encodeJP op off = jpWord off base := by
  subst h
  refine BitVec.eq_of_getLsbD_eq fun k hk => ?_
  simp only [encodeJP, jpWord, BitVec.getLsbD_append, BitVec.getLsbD_or, BitVec.getLsbD_shiftLeft,
    BitVec.getLsbD_setWidth]
  interval_cases k <;> simp

theorem encodeLow_eq (op : BitVec 6) (lo : BitVec 5) {base : Word} (h : base = 0#26 ++ op) :
    encodeLow op lo = jprWord lo base := by
  subst h
  refine BitVec.eq_of_getLsbD_eq fun k hk => ?_
  simp only [encodeLow, jprWord, BitVec.getLsbD_append, BitVec.getLsbD_or, BitVec.getLsbD_shiftLeft,
    BitVec.getLsbD_setWidth]
  interval_cases k <;> simp

theorem encodeRT_eq (f : BitVec 11) (rd rs1 : RegIdx) {base : Word} (h : base = 0#10 ++ f ++ 2#5 ++ 0#6) :
    encodeRT f rd rs1 = rtWord rd rs1 base := by
  subst h
  refine BitVec.eq_of_getLsbD_eq fun k hk => ?_
  simp only [encodeRT, rtWord, BitVec.getLsbD_append, BitVec.getLsbD_or, BitVec.getLsbD_shiftLeft,
    BitVec.getLsbD_setWidth]
  interval_cases k <;> simp

end Sys2Proof
end

