-- ==== Sys2Proof/Laws/Memory.lean ====
section
/-!
SUPPORT. The laws of the byte memories: read after write, writes elsewhere, and the canonical form, which every
operation keeps.
-/

namespace Sys2Proof.Machine

/-! ### Listed bytes -/

@[simp] theorem lookupCell_insertCell_same (m : List Host.Cell) (a : Nat) (b : Byte) :
    lookupCell (insertCell m a b) a = some b := by
  induction m with
  | nil => simp [insertCell, lookupCell]
  | cons c rest ih =>
    obtain ⟨k, d⟩ := c
    simp only [insertCell]
    split
    · simp [lookupCell]
    · split
      · simp [lookupCell]
      · rw [lookupCell, if_neg (by omega), ih]

theorem lookupCell_insertCell_other (m : List Host.Cell) {a a' : Nat} (b : Byte) (h : a' ≠ a) :
    lookupCell (insertCell m a b) a' = lookupCell m a' := by
  induction m with
  | nil => simp [insertCell, lookupCell, h.symm]
  | cons c rest ih =>
    obtain ⟨k, d⟩ := c
    simp only [insertCell]
    split
    · rw [lookupCell, if_neg h.symm]
    · split
      · next hk => simp [lookupCell, h.symm, ← hk]
      · simp only [lookupCell, ih]

@[simp] theorem lookupCell_eraseCell_same (m : List Host.Cell) (a : Nat) : lookupCell (eraseCell m a) a = none := by
  induction m with
  | nil => rfl
  | cons c rest ih =>
    obtain ⟨k, d⟩ := c
    simp only [eraseCell]
    split
    · exact ih
    · next hk => rw [lookupCell, if_neg hk, ih]

theorem lookupCell_eraseCell_other (m : List Host.Cell) {a a' : Nat} (h : a' ≠ a) :
    lookupCell (eraseCell m a) a' = lookupCell m a' := by
  induction m with
  | nil => rfl
  | cons c rest ih =>
    obtain ⟨k, d⟩ := c
    simp only [eraseCell]
    split
    · next hk => rw [ih, lookupCell, if_neg (by omega)]
    · simp only [lookupCell, ih]

/-! ### The canonical form -/

theorem risingFrom_mono {m : List Host.Cell} {lo lo' : Nat} (h : lo' ≤ lo) (hm : risingFrom lo m = true) :
    risingFrom lo' m = true := by
  cases m with
  | nil => rfl
  | cons c rest =>
    obtain ⟨k, d⟩ := c
    simp only [risingFrom, Bool.and_eq_true, decide_eq_true_eq] at hm ⊢
    exact ⟨⟨by omega, hm.1.2⟩, hm.2⟩

theorem risingFrom_insertCell {m : List Host.Cell} {lo a : Nat} (b : Byte) (hm : risingFrom lo m = true)
    (hlo : lo ≤ a) (ha : a < 2 ^ 32) : risingFrom lo (insertCell m a b) = true := by
  induction m generalizing lo with
  | nil => simpa [insertCell, risingFrom, hlo] using ha
  | cons c rest ih =>
    obtain ⟨k, d⟩ := c
    simp only [risingFrom, Bool.and_eq_true, decide_eq_true_eq] at hm
    simp only [insertCell]
    split
    · simp only [risingFrom, Bool.and_eq_true, decide_eq_true_eq]
      exact ⟨⟨hlo, ha⟩, ⟨by omega, hm.1.2⟩, hm.2⟩
    · split
      · next hk => subst hk; simpa [risingFrom, hm.1.1, hm.2] using ha
      · simp only [risingFrom, Bool.and_eq_true, decide_eq_true_eq]
        exact ⟨hm.1, ih hm.2 (by omega)⟩

theorem risingFrom_eraseCell {m : List Host.Cell} {lo : Nat} (a : Nat) (hm : risingFrom lo m = true) :
    risingFrom lo (eraseCell m a) = true := by
  induction m generalizing lo with
  | nil => rfl
  | cons c rest ih =>
    obtain ⟨k, d⟩ := c
    simp only [risingFrom, Bool.and_eq_true, decide_eq_true_eq] at hm
    simp only [eraseCell]
    split
    · exact risingFrom_mono (by omega) (ih hm.2)
    · simp only [risingFrom, Bool.and_eq_true, decide_eq_true_eq]
      exact ⟨hm.1, ih hm.2⟩

theorem mem_insertCell {m : List Host.Cell} {a : Nat} {b : Byte} {c : Host.Cell} (h : c ∈ insertCell m a b) :
    c = (a, b) ∨ c ∈ m := by
  induction m with
  | nil => simpa [insertCell] using h
  | cons d rest ih =>
    obtain ⟨k, e⟩ := d
    simp only [insertCell] at h
    split at h
    · simpa using h
    · split at h
      · rcases List.mem_cons.mp h with h | h
        · exact .inl h
        · exact .inr (List.mem_cons_of_mem _ h)
      · rcases List.mem_cons.mp h with h | h
        · exact .inr (h ▸ List.mem_cons_self)
        · exact (ih h).imp_right (List.mem_cons_of_mem _)

theorem mem_eraseCell {m : List Host.Cell} {a : Nat} {c : Host.Cell} (h : c ∈ eraseCell m a) : c ∈ m := by
  induction m with
  | nil => simp [eraseCell] at h
  | cons d rest ih =>
    obtain ⟨k, e⟩ := d
    simp only [eraseCell] at h
    split at h
    · exact List.mem_cons_of_mem _ (ih h)
    · rcases List.mem_cons.mp h with h | h
      · exact h ▸ List.mem_cons_self
      · exact List.mem_cons_of_mem _ (ih h)

/-- A write of data memory inside the 32-bit space keeps the canonical form. -/
theorem Memory.wf_write {m : Memory} {a : Nat} (b : Byte) (hm : m.wf = true) (ha : a < 2 ^ 32) :
    (m.write a b).wf = true := by
  simp only [Memory.wf, Bool.and_eq_true, List.all_eq_true] at hm
  simp only [Memory.write]
  split
  · simp only [Memory.wf, Bool.and_eq_true, List.all_eq_true]
    exact ⟨risingFrom_eraseCell a hm.1, fun c hc => hm.2 c (mem_eraseCell hc)⟩
  · next hb =>
    simp only [Memory.wf, Bool.and_eq_true, List.all_eq_true]
    refine ⟨risingFrom_insertCell b hm.1 (Nat.zero_le a) ha, fun c hc => ?_⟩
    rcases mem_insertCell hc with rfl | hc
    · simpa using hb
    · exact hm.2 c hc

/-- A load of instruction memory inside the 32-bit space keeps the canonical form. -/
theorem InstrMemory.wf_load {m : InstrMemory} {a : Nat} {bs : List Byte} (hm : m.wf = true)
    (ha : a + bs.length ≤ 2 ^ 32) : (m.load a bs).wf = true := by
  induction bs generalizing m a with
  | nil => exact hm
  | cons b bs ih =>
    simp only [List.length_cons] at ha
    exact ih (risingFrom_insertCell b hm (Nat.zero_le a) (by omega)) (by omega)

theorem reset_dmem_wf : Memory.wf State.reset.dmem = true := by decide

theorem reset_imem_wf : InstrMemory.wf State.reset.imem = true := by decide

/-! ### Data memory -/

@[simp] theorem Memory.read_write_same (m : Memory) (a : Nat) (b : Byte) : (m.write a b).read a = b := by
  simp only [Memory.write, Memory.read]
  split
  · next hb => simp [hb]
  · simp

theorem Memory.read_write_other (m : Memory) {a a' : Nat} (b : Byte) (h : a' ≠ a) :
    (m.write a b).read a' = m.read a' := by
  simp only [Memory.write, Memory.read]
  split
  · rw [lookupCell_eraseCell_other m h]
  · rw [lookupCell_insertCell_other m b h]

/-- One byte of a store reads back where the platform has RAM, and changes no other address. -/
theorem read_storeCell (map : List Region) (m : Memory) (a a' : Nat) (b : Byte) :
    (storeCell map m a b).read a' = if a' = a ∧ regionAt map a = some .ram then b else m.read a' := by
  simp only [storeCell]
  split
  · next h =>
    by_cases ha : a' = a
    · subst ha; simp [h]
    · simp [ha, Memory.read_write_other m b ha]
  · next h => rw [if_neg (fun hc => h hc.2)]

/-- A store changes no byte outside the ones it stores. -/
theorem read_storeCells_outside (map : List Region) (m : Memory) (bs : List Byte) {a a' : Nat}
    (h : a' < a ∨ a + bs.length ≤ a') : (storeCells map m a bs).read a' = m.read a' := by
  induction bs generalizing m a with
  | nil => rfl
  | cons b bs ih =>
    simp only [List.length_cons] at h
    rw [storeCells, ih _ (by omega), read_storeCell, if_neg (by omega)]

/-- What a byte inside a store reads as afterwards: the stored byte in RAM, else what it read as before. -/
theorem read_storeCells_inside (map : List Region) (m : Memory) (bs : List Byte) (a k : Nat) (hk : k < bs.length) :
    (storeCells map m a bs).read (a + k) =
      if regionAt map (a + k) = some .ram then bs[k] else m.read (a + k) := by
  induction bs generalizing m a k with
  | nil => simp at hk
  | cons b bs ih =>
    cases k with
    | zero =>
      rw [storeCells, read_storeCells_outside _ _ _ (by omega), read_storeCell]
      simp
    | succ k =>
      have := ih (storeCell map m a b) (a + 1) k (by simpa using hk)
      rw [storeCells, show a + (k + 1) = a + 1 + k by omega, this, List.getElem_cons_succ]
      split
      · rfl
      · rw [read_storeCell, if_neg (by omega)]

/-- A store inside the 32-bit space keeps the canonical form of data memory. -/
theorem wf_storeCells (map : List Region) {m : Memory} {a : Nat} {bs : List Byte} (hm : m.wf = true)
    (ha : a + bs.length ≤ 2 ^ 32) : Memory.wf (storeCells map m a bs) = true := by
  induction bs generalizing m a with
  | nil => exact hm
  | cons b bs ih =>
    simp only [List.length_cons] at ha
    refine ih (m := storeCell map m a b) ?_ (by omega)
    simp only [storeCell]
    split
    · exact Memory.wf_write b hm (by omega)
    · exact hm

/-! ### Instruction memory -/

theorem lookupCell_load_outside (m : InstrMemory) (bs : List Byte) {a a' : Nat}
    (h : a' < a ∨ a + bs.length ≤ a') : lookupCell (m.load a bs) a' = lookupCell m a' := by
  induction bs generalizing m a with
  | nil => rfl
  | cons b bs ih =>
    simp only [List.length_cons] at h
    rw [InstrMemory.load, ih _ (by omega), lookupCell_insertCell_other m b (by omega)]

theorem lookupCell_load_inside (m : InstrMemory) (bs : List Byte) (a k : Nat) (hk : k < bs.length) :
    lookupCell (m.load a bs) (a + k) = some bs[k] := by
  induction bs generalizing m a k with
  | nil => simp at hk
  | cons b bs ih =>
    cases k with
    | zero => rw [InstrMemory.load, lookupCell_load_outside _ _ (by omega)]; simp
    | succ k =>
      have := ih (insertCell m a b) (a + 1) k (by simpa using hk)
      rw [InstrMemory.load, show a + (k + 1) = a + 1 + k by omega, this]
      simp

end Sys2Proof.Machine
end

