-- ==== Sys2Proof/Laws/State.lean ====
section
/-!
SUPPORT. One lemma for each field of the state and each named update of it, so that no later proof unfolds an update.
-/

namespace Sys2Proof.Machine

variable (s : State)

/-! ### `setGpr` -/

@[simp] theorem State.setGpr_gpr (i : RegIdx) (v : Word) :
    (s.setGpr i v).gpr = if i = zeroReg ∨ i = statusReg then s.gpr else s.gpr.set (i.toNat - 2) v := rfl
@[simp] theorem State.setGpr_sr (i : RegIdx) (v : Word) : (s.setGpr i v).sr = s.sr := rfl
@[simp] theorem State.setGpr_pc (i : RegIdx) (v : Word) : (s.setGpr i v).pc = s.pc := rfl
@[simp] theorem State.setGpr_dmem (i : RegIdx) (v : Word) : (s.setGpr i v).dmem = s.dmem := rfl
@[simp] theorem State.setGpr_imem (i : RegIdx) (v : Word) : (s.setGpr i v).imem = s.imem := rfl
@[simp] theorem State.setGpr_map (i : RegIdx) (v : Word) : (s.setGpr i v).map = s.map := rfl
@[simp] theorem State.setGpr_trk (i : RegIdx) (v : Word) : (s.setGpr i v).trk = s.trk := rfl
@[simp] theorem State.setGpr_pins (i : RegIdx) (v : Word) : (s.setGpr i v).pins = s.pins := rfl
@[simp] theorem State.setGpr_extWait (i : RegIdx) (v : Word) : (s.setGpr i v).extWait = s.extWait := rfl
@[simp] theorem State.setGpr_extcatch (i : RegIdx) (v : Word) : (s.setGpr i v).extcatch = s.extcatch := rfl
@[simp] theorem State.setGpr_bus (i : RegIdx) (v : Word) : (s.setGpr i v).bus = s.bus := rfl
@[simp] theorem State.setGpr_tick (i : RegIdx) (v : Word) : (s.setGpr i v).tick = s.tick := rfl

/-! ### `setFlags` -/

@[simp] theorem State.setFlags_gpr (f : AluFlags) : (s.setFlags f).gpr = s.gpr := rfl
@[simp] theorem State.setFlags_sr (f : AluFlags) : (s.setFlags f).sr = { s.sr with flags := f } := rfl
@[simp] theorem State.setFlags_pc (f : AluFlags) : (s.setFlags f).pc = s.pc := rfl
@[simp] theorem State.setFlags_dmem (f : AluFlags) : (s.setFlags f).dmem = s.dmem := rfl
@[simp] theorem State.setFlags_imem (f : AluFlags) : (s.setFlags f).imem = s.imem := rfl
@[simp] theorem State.setFlags_map (f : AluFlags) : (s.setFlags f).map = s.map := rfl
@[simp] theorem State.setFlags_trk (f : AluFlags) : (s.setFlags f).trk = s.trk := rfl
@[simp] theorem State.setFlags_pins (f : AluFlags) : (s.setFlags f).pins = s.pins := rfl
@[simp] theorem State.setFlags_extWait (f : AluFlags) : (s.setFlags f).extWait = s.extWait := rfl
@[simp] theorem State.setFlags_extcatch (f : AluFlags) : (s.setFlags f).extcatch = s.extcatch := rfl
@[simp] theorem State.setFlags_bus (f : AluFlags) : (s.setFlags f).bus = s.bus := rfl
@[simp] theorem State.setFlags_tick (f : AluFlags) : (s.setFlags f).tick = s.tick := rfl

/-! ### `setPermissions` -/

@[simp] theorem State.setPermissions_gpr (e i : Bool) (m : BitVec 2) : (s.setPermissions e i m).gpr = s.gpr := rfl
@[simp] theorem State.setPermissions_sr (e i : Bool) (m : BitVec 2) :
    (s.setPermissions e i m).sr = { s.sr with eie := e, iie := i, mode := m } := rfl
@[simp] theorem State.setPermissions_pc (e i : Bool) (m : BitVec 2) : (s.setPermissions e i m).pc = s.pc := rfl
@[simp] theorem State.setPermissions_dmem (e i : Bool) (m : BitVec 2) : (s.setPermissions e i m).dmem = s.dmem := rfl
@[simp] theorem State.setPermissions_imem (e i : Bool) (m : BitVec 2) : (s.setPermissions e i m).imem = s.imem := rfl
@[simp] theorem State.setPermissions_map (e i : Bool) (m : BitVec 2) : (s.setPermissions e i m).map = s.map := rfl
@[simp] theorem State.setPermissions_trk (e i : Bool) (m : BitVec 2) : (s.setPermissions e i m).trk = s.trk := rfl
@[simp] theorem State.setPermissions_pins (e i : Bool) (m : BitVec 2) : (s.setPermissions e i m).pins = s.pins := rfl
@[simp] theorem State.setPermissions_extWait (e i : Bool) (m : BitVec 2) :
    (s.setPermissions e i m).extWait = s.extWait := rfl
@[simp] theorem State.setPermissions_extcatch (e i : Bool) (m : BitVec 2) :
    (s.setPermissions e i m).extcatch = s.extcatch := rfl
@[simp] theorem State.setPermissions_bus (e i : Bool) (m : BitVec 2) : (s.setPermissions e i m).bus = s.bus := rfl
@[simp] theorem State.setPermissions_tick (e i : Bool) (m : BitVec 2) : (s.setPermissions e i m).tick = s.tick := rfl

/-! ### `advance` -/

@[simp] theorem State.advance_gpr : (s.advance).gpr = s.gpr := rfl
@[simp] theorem State.advance_sr : (s.advance).sr = s.sr := rfl
@[simp] theorem State.advance_pc : (s.advance).pc = s.pc + 4#32 := rfl
@[simp] theorem State.advance_dmem : (s.advance).dmem = s.dmem := rfl
@[simp] theorem State.advance_imem : (s.advance).imem = s.imem := rfl
@[simp] theorem State.advance_map : (s.advance).map = s.map := rfl
@[simp] theorem State.advance_trk : (s.advance).trk = s.trk := rfl
@[simp] theorem State.advance_pins : (s.advance).pins = s.pins := rfl
@[simp] theorem State.advance_extWait : (s.advance).extWait = s.extWait := rfl
@[simp] theorem State.advance_extcatch : (s.advance).extcatch = s.extcatch := rfl
@[simp] theorem State.advance_bus : (s.advance).bus = s.bus := rfl
@[simp] theorem State.advance_tick : (s.advance).tick = s.tick := rfl

/-! ### `jump` -/

@[simp] theorem State.jump_gpr (w : Word) : (s.jump w).gpr = s.gpr := rfl
@[simp] theorem State.jump_sr (w : Word) : (s.jump w).sr = s.sr := rfl
@[simp] theorem State.jump_pc (w : Word) : (s.jump w).pc = w := rfl
@[simp] theorem State.jump_dmem (w : Word) : (s.jump w).dmem = s.dmem := rfl
@[simp] theorem State.jump_imem (w : Word) : (s.jump w).imem = s.imem := rfl
@[simp] theorem State.jump_map (w : Word) : (s.jump w).map = s.map := rfl
@[simp] theorem State.jump_trk (w : Word) : (s.jump w).trk = s.trk := rfl
@[simp] theorem State.jump_pins (w : Word) : (s.jump w).pins = s.pins := rfl
@[simp] theorem State.jump_extWait (w : Word) : (s.jump w).extWait = s.extWait := rfl
@[simp] theorem State.jump_extcatch (w : Word) : (s.jump w).extcatch = s.extcatch := rfl
@[simp] theorem State.jump_bus (w : Word) : (s.jump w).bus = s.bus := rfl
@[simp] theorem State.jump_tick (w : Word) : (s.jump w).tick = s.tick := rfl

/-! ### `track` -/

@[simp] theorem State.track_gpr (k : Executed) : (s.track k).gpr = s.gpr := rfl
@[simp] theorem State.track_sr (k : Executed) : (s.track k).sr = s.sr := rfl
@[simp] theorem State.track_pc (k : Executed) : (s.track k).pc = s.pc := rfl
@[simp] theorem State.track_dmem (k : Executed) : (s.track k).dmem = s.dmem := rfl
@[simp] theorem State.track_imem (k : Executed) : (s.track k).imem = s.imem := rfl
@[simp] theorem State.track_map (k : Executed) : (s.track k).map = s.map := rfl
@[simp] theorem State.track_trk (k : Executed) : (s.track k).trk = s.trk.after k s.sr := rfl
@[simp] theorem State.track_pins (k : Executed) : (s.track k).pins = s.pins := rfl
@[simp] theorem State.track_extWait (k : Executed) : (s.track k).extWait = s.extWait := rfl
@[simp] theorem State.track_extcatch (k : Executed) : (s.track k).extcatch = s.extcatch := rfl
@[simp] theorem State.track_bus (k : Executed) : (s.track k).bus = s.bus := rfl
@[simp] theorem State.track_tick (k : Executed) : (s.track k).tick = s.tick := rfl

/-! ### `withRead` -/

@[simp] theorem State.withRead_gpr (m : BusMode) (a : Word) : (s.withRead m a).gpr = s.gpr := rfl
@[simp] theorem State.withRead_sr (m : BusMode) (a : Word) : (s.withRead m a).sr = s.sr := rfl
@[simp] theorem State.withRead_pc (m : BusMode) (a : Word) : (s.withRead m a).pc = s.pc := rfl
@[simp] theorem State.withRead_dmem (m : BusMode) (a : Word) : (s.withRead m a).dmem = s.dmem := rfl
@[simp] theorem State.withRead_imem (m : BusMode) (a : Word) : (s.withRead m a).imem = s.imem := rfl
@[simp] theorem State.withRead_map (m : BusMode) (a : Word) : (s.withRead m a).map = s.map := rfl
@[simp] theorem State.withRead_trk (m : BusMode) (a : Word) : (s.withRead m a).trk = s.trk := rfl
@[simp] theorem State.withRead_pins (m : BusMode) (a : Word) : (s.withRead m a).pins = s.pins := rfl
@[simp] theorem State.withRead_extWait (m : BusMode) (a : Word) : (s.withRead m a).extWait = s.extWait := rfl
@[simp] theorem State.withRead_extcatch (m : BusMode) (a : Word) : (s.withRead m a).extcatch = s.extcatch := rfl
@[simp] theorem State.withRead_bus (m : BusMode) (a : Word) :
    (s.withRead m a).bus = some { mode := m, addr := a, dataOut := none } := rfl
@[simp] theorem State.withRead_tick (m : BusMode) (a : Word) : (s.withRead m a).tick = s.tick := rfl

/-! ### `withWrite` -/

@[simp] theorem State.withWrite_gpr (m : BusMode) (a v : Word) : (s.withWrite m a v).gpr = s.gpr := rfl
@[simp] theorem State.withWrite_sr (m : BusMode) (a v : Word) : (s.withWrite m a v).sr = s.sr := rfl
@[simp] theorem State.withWrite_pc (m : BusMode) (a v : Word) : (s.withWrite m a v).pc = s.pc := rfl
@[simp] theorem State.withWrite_dmem (m : BusMode) (a v : Word) : (s.withWrite m a v).dmem = s.dmem := rfl
@[simp] theorem State.withWrite_imem (m : BusMode) (a v : Word) : (s.withWrite m a v).imem = s.imem := rfl
@[simp] theorem State.withWrite_map (m : BusMode) (a v : Word) : (s.withWrite m a v).map = s.map := rfl
@[simp] theorem State.withWrite_trk (m : BusMode) (a v : Word) : (s.withWrite m a v).trk = s.trk := rfl
@[simp] theorem State.withWrite_pins (m : BusMode) (a v : Word) : (s.withWrite m a v).pins = s.pins := rfl
@[simp] theorem State.withWrite_extWait (m : BusMode) (a v : Word) : (s.withWrite m a v).extWait = s.extWait := rfl
@[simp] theorem State.withWrite_extcatch (m : BusMode) (a v : Word) : (s.withWrite m a v).extcatch = s.extcatch := rfl
@[simp] theorem State.withWrite_bus (m : BusMode) (a v : Word) :
    (s.withWrite m a v).bus = some { mode := m, addr := a, dataOut := some v } := rfl
@[simp] theorem State.withWrite_tick (m : BusMode) (a v : Word) : (s.withWrite m a v).tick = s.tick := rfl

/-! ### `storeBytes` -/

@[simp] theorem State.storeBytes_gpr (a : Nat) (bs : List Byte) : (s.storeBytes a bs).gpr = s.gpr := rfl
@[simp] theorem State.storeBytes_sr (a : Nat) (bs : List Byte) : (s.storeBytes a bs).sr = s.sr := rfl
@[simp] theorem State.storeBytes_pc (a : Nat) (bs : List Byte) : (s.storeBytes a bs).pc = s.pc := rfl
@[simp] theorem State.storeBytes_dmem (a : Nat) (bs : List Byte) :
    (s.storeBytes a bs).dmem = storeCells s.map s.dmem a bs := rfl
@[simp] theorem State.storeBytes_imem (a : Nat) (bs : List Byte) : (s.storeBytes a bs).imem = s.imem := rfl
@[simp] theorem State.storeBytes_map (a : Nat) (bs : List Byte) : (s.storeBytes a bs).map = s.map := rfl
@[simp] theorem State.storeBytes_trk (a : Nat) (bs : List Byte) : (s.storeBytes a bs).trk = s.trk := rfl
@[simp] theorem State.storeBytes_pins (a : Nat) (bs : List Byte) : (s.storeBytes a bs).pins = s.pins := rfl
@[simp] theorem State.storeBytes_extWait (a : Nat) (bs : List Byte) : (s.storeBytes a bs).extWait = s.extWait := rfl
@[simp] theorem State.storeBytes_extcatch (a : Nat) (bs : List Byte) :
    (s.storeBytes a bs).extcatch = s.extcatch := rfl
@[simp] theorem State.storeBytes_bus (a : Nat) (bs : List Byte) : (s.storeBytes a bs).bus = s.bus := rfl
@[simp] theorem State.storeBytes_tick (a : Nat) (bs : List Byte) : (s.storeBytes a bs).tick = s.tick := rfl

/-! ### `openStep` -/

@[simp] theorem State.openStep_gpr : (s.openStep).gpr = s.gpr := rfl
@[simp] theorem State.openStep_sr : (s.openStep).sr = s.sr := rfl
@[simp] theorem State.openStep_pc : (s.openStep).pc = s.pc := rfl
@[simp] theorem State.openStep_dmem : (s.openStep).dmem = s.dmem := rfl
@[simp] theorem State.openStep_imem : (s.openStep).imem = s.imem := rfl
@[simp] theorem State.openStep_map : (s.openStep).map = s.map := rfl
@[simp] theorem State.openStep_trk : (s.openStep).trk = s.trk := rfl
@[simp] theorem State.openStep_pins : (s.openStep).pins = s.pins.tail := rfl
@[simp] theorem State.openStep_extWait : (s.openStep).extWait = s.extWait := rfl
@[simp] theorem State.openStep_extcatch : (s.openStep).extcatch = false := rfl
@[simp] theorem State.openStep_bus : (s.openStep).bus = none := rfl
@[simp] theorem State.openStep_tick : (s.openStep).tick = s.tick + 1 := rfl

/-! ### `coreReset` -/

@[simp] theorem State.coreReset_gpr : (s.coreReset).gpr = Vector.replicate 30 0#32 := rfl
@[simp] theorem State.coreReset_sr : (s.coreReset).sr = StatusReg.cleared := rfl
@[simp] theorem State.coreReset_pc : (s.coreReset).pc = resetVector := rfl
@[simp] theorem State.coreReset_dmem : (s.coreReset).dmem = s.dmem := rfl
@[simp] theorem State.coreReset_imem : (s.coreReset).imem = s.imem := rfl
@[simp] theorem State.coreReset_map : (s.coreReset).map = s.map := rfl
@[simp] theorem State.coreReset_trk : (s.coreReset).trk = Trackers.cleared := rfl
@[simp] theorem State.coreReset_pins : (s.coreReset).pins = s.pins := rfl
@[simp] theorem State.coreReset_extWait : (s.coreReset).extWait = none := rfl
@[simp] theorem State.coreReset_extcatch : (s.coreReset).extcatch = s.extcatch := rfl
@[simp] theorem State.coreReset_bus : (s.coreReset).bus = s.bus := rfl
@[simp] theorem State.coreReset_tick : (s.coreReset).tick = s.tick := rfl

/-! ### `withFetchWord` -/

@[simp] theorem State.withFetchWord_gpr (n w : Nat) : (s.withFetchWord n w).gpr = s.gpr := rfl
@[simp] theorem State.withFetchWord_sr (n w : Nat) : (s.withFetchWord n w).sr = s.sr := rfl
@[simp] theorem State.withFetchWord_pc (n w : Nat) : (s.withFetchWord n w).pc = s.pc := rfl
@[simp] theorem State.withFetchWord_dmem (n w : Nat) : (s.withFetchWord n w).dmem = s.dmem := rfl
@[simp] theorem State.withFetchWord_imem (n w : Nat) :
    (s.withFetchWord n w).imem = s.imem.load (fetchAddress s.pc).toNat (bytesOfWord (BitVec.ofNat 32 (w % 2 ^ n))) := rfl
@[simp] theorem State.withFetchWord_map (n w : Nat) : (s.withFetchWord n w).map = s.map := rfl
@[simp] theorem State.withFetchWord_trk (n w : Nat) : (s.withFetchWord n w).trk = s.trk := rfl
@[simp] theorem State.withFetchWord_pins (n w : Nat) : (s.withFetchWord n w).pins = s.pins := rfl
@[simp] theorem State.withFetchWord_extWait (n w : Nat) : (s.withFetchWord n w).extWait = s.extWait := rfl
@[simp] theorem State.withFetchWord_extcatch (n w : Nat) : (s.withFetchWord n w).extcatch = s.extcatch := rfl
@[simp] theorem State.withFetchWord_bus (n w : Nat) : (s.withFetchWord n w).bus = s.bus := rfl
@[simp] theorem State.withFetchWord_tick (n w : Nat) : (s.withFetchWord n w).tick = s.tick := rfl

/-! ### `enterInterrupt` -/

@[simp] theorem enterInterrupt_gpr (e : Word) : (enterInterrupt e s).gpr = s.gpr.set 0 s.pc := rfl
@[simp] theorem enterInterrupt_sr (e : Word) :
    (enterInterrupt e s).sr = { s.sr with eie := false, iie := false, mode := 0b00#2 } := rfl
@[simp] theorem enterInterrupt_pc (e : Word) : (enterInterrupt e s).pc = e := rfl
@[simp] theorem enterInterrupt_dmem (e : Word) : (enterInterrupt e s).dmem = s.dmem := rfl
@[simp] theorem enterInterrupt_imem (e : Word) : (enterInterrupt e s).imem = s.imem := rfl
@[simp] theorem enterInterrupt_map (e : Word) : (enterInterrupt e s).map = s.map := rfl
@[simp] theorem enterInterrupt_trk (e : Word) : (enterInterrupt e s).trk = { s.trk with srDirect := true } := rfl
@[simp] theorem enterInterrupt_pins (e : Word) : (enterInterrupt e s).pins = s.pins := rfl
@[simp] theorem enterInterrupt_extWait (e : Word) : (enterInterrupt e s).extWait = s.extWait := rfl
@[simp] theorem enterInterrupt_extcatch (e : Word) : (enterInterrupt e s).extcatch = s.extcatch := rfl
@[simp] theorem enterInterrupt_bus (e : Word) : (enterInterrupt e s).bus = s.bus := rfl
@[simp] theorem enterInterrupt_tick (e : Word) : (enterInterrupt e s).tick = s.tick := rfl

/-! ### `returnFromInterrupt` -/

@[simp] theorem returnFromInterrupt_gpr (w : Word) : (returnFromInterrupt w s).gpr = s.gpr := rfl
@[simp] theorem returnFromInterrupt_sr (w : Word) :
    (returnFromInterrupt w s).sr = { s.sr with eie := true, iie := true, mode := 0b01#2 } := rfl
@[simp] theorem returnFromInterrupt_pc (w : Word) : (returnFromInterrupt w s).pc = w := rfl
@[simp] theorem returnFromInterrupt_dmem (w : Word) : (returnFromInterrupt w s).dmem = s.dmem := rfl
@[simp] theorem returnFromInterrupt_imem (w : Word) : (returnFromInterrupt w s).imem = s.imem := rfl
@[simp] theorem returnFromInterrupt_map (w : Word) : (returnFromInterrupt w s).map = s.map := rfl
@[simp] theorem returnFromInterrupt_trk (w : Word) :
    (returnFromInterrupt w s).trk = { s.trk with srDirect := true } := rfl
@[simp] theorem returnFromInterrupt_pins (w : Word) : (returnFromInterrupt w s).pins = s.pins := rfl
@[simp] theorem returnFromInterrupt_extWait (w : Word) : (returnFromInterrupt w s).extWait = s.extWait := rfl
@[simp] theorem returnFromInterrupt_extcatch (w : Word) : (returnFromInterrupt w s).extcatch = s.extcatch := rfl
@[simp] theorem returnFromInterrupt_bus (w : Word) : (returnFromInterrupt w s).bus = s.bus := rfl
@[simp] theorem returnFromInterrupt_tick (w : Word) : (returnFromInterrupt w s).tick = s.tick := rfl

/-! ### `raiseExtInt` -/

@[simp] theorem raiseExtInt_gpr : (raiseExtInt s).gpr = s.gpr.set 0 s.pc := rfl
@[simp] theorem raiseExtInt_sr : (raiseExtInt s).sr = { s.sr with eie := false, iie := false, mode := 0b00#2 } := rfl
@[simp] theorem raiseExtInt_pc : (raiseExtInt s).pc = extVector := rfl
@[simp] theorem raiseExtInt_dmem : (raiseExtInt s).dmem = s.dmem := rfl
@[simp] theorem raiseExtInt_imem : (raiseExtInt s).imem = s.imem := rfl
@[simp] theorem raiseExtInt_map : (raiseExtInt s).map = s.map := rfl
@[simp] theorem raiseExtInt_trk : (raiseExtInt s).trk = { s.trk with srDirect := true, nopRun := 0 } := rfl
@[simp] theorem raiseExtInt_pins : (raiseExtInt s).pins = s.pins := rfl
@[simp] theorem raiseExtInt_extWait : (raiseExtInt s).extWait = s.extWait := rfl
@[simp] theorem raiseExtInt_extcatch : (raiseExtInt s).extcatch = true := rfl
@[simp] theorem raiseExtInt_bus : (raiseExtInt s).bus = s.bus := rfl
@[simp] theorem raiseExtInt_tick : (raiseExtInt s).tick = s.tick := rfl

end Sys2Proof.Machine
end

