-- ==== Sys2Proof/Laws/Ops.lean ====
section
/-!
SUPPORT. What each shared operation can do, said once: registers, the guard of GPR1, the end of an instruction, loads,
stores, boundaries, fetch and the step.
-/

namespace Sys2Proof.Machine

/-! ### Registers -/

@[simp] theorem State.reg_zero (s : State) : s.reg 0#5 = 0#32 := rfl

@[simp] theorem State.reg_status (s : State) : s.reg 1#5 = statusValue s.sr := rfl

/-- A general register, GPR2 .. GPR31, is read from the register file. -/
theorem State.reg_gpr (s : State) {i : RegIdx} (h0 : i ≠ zeroReg) (h1 : i ≠ statusReg) :
    s.reg i = s.gpr[i.toNat - 2] := by
  rw [State.reg, if_neg h0, if_neg h1]

/-- Two states with the same register file and status register agree on every register. -/
theorem State.reg_congr {s t : State} (hg : t.gpr = s.gpr) (hs : t.sr = s.sr) (j : RegIdx) : t.reg j = s.reg j := by
  simp only [State.reg, hg, hs]

/-- Two states with the same register file agree on every register but GPR1. -/
theorem State.reg_congr_gpr {s t : State} (hg : t.gpr = s.gpr) {j : RegIdx} (h1 : j ≠ statusReg) :
    t.reg j = s.reg j := by
  simp only [State.reg, hg, if_neg h1]

@[simp] theorem State.reg_setGpr_same (s : State) {i : RegIdx} (v : Word) (h0 : i ≠ zeroReg) (h1 : i ≠ statusReg) :
    (s.setGpr i v).reg i = v := by
  simp [State.reg, h0, h1]

theorem State.reg_setGpr_other (s : State) {i j : RegIdx} (v : Word) (h : j ≠ i) : (s.setGpr i v).reg j = s.reg j := by
  by_cases hj0 : j = zeroReg
  · subst hj0; rfl
  by_cases hj1 : j = statusReg
  · subst hj1; rfl
  rw [State.reg_gpr _ hj0 hj1, State.reg_gpr _ hj0 hj1]
  by_cases hi : i = zeroReg ∨ i = statusReg
  · simp only [State.setGpr_gpr, if_pos hi]
  · simp only [State.setGpr_gpr, if_neg hi]
    refine Vector.getElem_set_ne _ _ ?_
    have h' : j.toNat ≠ i.toNat := fun e => h (BitVec.eq_of_toNat_eq e)
    have hj0' : j.toNat ≠ 0 := fun e => hj0 (BitVec.eq_of_toNat_eq (by simpa using e))
    have hj1' : j.toNat ≠ 1 := fun e => hj1 (BitVec.eq_of_toNat_eq (by simpa using e))
    have hi0' : i.toNat ≠ 0 := fun e => hi (.inl (BitVec.eq_of_toNat_eq (by simpa using e)))
    have hi1' : i.toNat ≠ 1 := fun e => hi (.inr (BitVec.eq_of_toNat_eq (by simpa using e)))
    omega

theorem State.setGpr_zero (s : State) (v : Word) : s.setGpr 0#5 v = s := rfl

/-- A register read outside every hazard window is what the register holds. -/
theorem readReg_clear {s : State} {i : RegIdx} (p : ReadPort) (hl : s.trk.loadShadow ≠ some i)
    (hw : i = statusReg → s.trk.sinceSrWrite = .far ∧ s.trk.sinceFlagWrite = .far) : readReg s p i = s.reg i := by
  by_cases h0 : i = zeroReg
  · simp [readReg, h0]
  · by_cases h1 : i = statusReg
    · obtain ⟨hf, hg⟩ := hw h1
      rw [readReg, if_neg h0, if_neg hl, if_pos h1, readStatus, hf, hg, h1]
      rfl
    · simp [readReg, h0, hl, h1]

/-! ### Writes and the end of an instruction -/

/-- Everything a write of GPR1 can do. -/
theorem writeStatus_cases (v : Word) (s : State) :
    (s.sr.mode = 0b00#2 ∧ v &&& statusUndefinedMask = 0#32 ∧ v[15] = false ∧
      writeStatus v s = .next (s.setPermissions v[8] v[9] (v.extractLsb' 14 2))) ∨
    (s.sr.mode ≠ 0b00#2 ∧ writeStatus v s = .next s) ∨
    (s.sr.mode = 0b00#2 ∧ v &&& statusUndefinedMask ≠ 0#32 ∧ writeStatus v s = .refused .statusUndefinedBits) ∨
    (s.sr.mode = 0b00#2 ∧ v &&& statusUndefinedMask = 0#32 ∧ v[15] = true ∧
      writeStatus v s = .refused .statusUndefinedMode) := by
  by_cases hm : s.sr.mode = 0b00#2
  · by_cases hu : v &&& statusUndefinedMask = 0#32
    · cases h15 : v[15] <;> simp [writeStatus, hm, hu, h15]
    · simp [writeStatus, hm, hu]
  · simp [writeStatus, hm]

/-- Everything a register write that answers a state can do. -/
theorem writeReg_next {i : RegIdx} {v : Word} {s t : State} (h : writeReg i v s = .next t) :
    (i ≠ statusReg ∧ t = s.setGpr i v) ∨
    (i = statusReg ∧ s.sr.mode ≠ 0b00#2 ∧ t = s) ∨
    (i = statusReg ∧ s.sr.mode = 0b00#2 ∧ v &&& statusUndefinedMask = 0#32 ∧ v[15] = false ∧
      t = s.setPermissions v[8] v[9] (v.extractLsb' 14 2)) := by
  simp only [writeReg] at h
  split at h
  · next hi =>
    rcases writeStatus_cases v s with ⟨hm, hu, h15, hw⟩ | ⟨hm, hw⟩ | ⟨_, _, hw⟩ | ⟨_, _, _, hw⟩ <;>
      rw [hw] at h <;> cases h
    · exact .inr (.inr ⟨hi, hm, hu, h15, rfl⟩)
    · exact .inr (.inl ⟨hi, hm, rfl⟩)
  · next hi => cases h; exact .inl ⟨hi, rfl⟩

/-- A register write faults never. -/
theorem writeReg_fault {i : RegIdx} {v : Word} {s : State} {f : Fault} : writeReg i v s ≠ .fault f := by
  intro h
  simp only [writeReg] at h
  split at h
  · rcases writeStatus_cases v s with ⟨_, _, _, hw⟩ | ⟨_, hw⟩ | ⟨_, _, hw⟩ | ⟨_, _, _, hw⟩ <;> rw [hw] at h <;> cases h
  · cases h

/-- The two-NOP rule lets an instruction through exactly when it is met. -/
theorem guarded_ok {named : List RegIdx} {s : State} {r : Result} (h : NamesOk s named) : guarded named s r = r := by
  simp only [guarded, Bool.and_eq_true, List.contains_iff_mem, bne_iff_ne, ite_eq_right_iff]
  exact fun hc => absurd (h hc.1) hc.2

theorem guarded_refused {named : List RegIdx} {s : State} {r : Result} (hm : statusReg ∈ named)
    (hn : s.trk.nopRun ≠ 2) : guarded named s r = .refused .statusWithoutTwoNops := by
  simp [guarded, hm, hn]

theorem guarded_next {named : List RegIdx} {s t : State} {r : Result} (h : guarded named s r = .next t) :
    NamesOk s named ∧ r = .next t := by
  by_cases hg : NamesOk s named
  · rw [guarded_ok hg] at h; exact ⟨hg, h⟩
  · obtain ⟨hm, hn⟩ := Classical.not_imp.mp hg
    rw [guarded_refused hm hn] at h
    cases h

theorem track_setFlags (s : State) (f : AluFlags) (k : Executed) :
    (s.setFlags f).track k = (s.track k).setFlags f := by
  simp only [State.track, State.setFlags, Trackers.after]

/-- What `finish` answers when the value may go to its destination: the one effect of an instruction with a
destination. -/
theorem finish_effect {k : Executed} {rd : RegIdx} {v : Word} {s : State} (h : DestOk s rd v) :
    ∃ t, finish k rd v s = .next t ∧ RegisterEffect k s.sr.flags s.bus rd v s t := by
  by_cases h1 : rd = statusReg
  · subst h1
    rcases writeStatus_cases v (s.track k).advance with ⟨hm, hu, h15, hw⟩ | ⟨hm, hw⟩ | ⟨hm, hu, hw⟩ | ⟨hm, hu, h15, hw⟩
    · refine ⟨_, hw, ⟨rfl, ?_, rfl, ?_, rfl, ?_, ?_, fun _ => rfl, rfl, rfl, ⟨rfl, rfl, rfl, rfl, rfl, rfl⟩⟩⟩
      · intro _ h; exact absurd rfl h
      · intro j _ hj; exact State.reg_congr_gpr (by rfl) hj
      · rintro (h | h)
        · exact absurd rfl h
        · exact absurd hm h
      · intro _ _; exact ⟨rfl, rfl, rfl⟩
    · refine ⟨_, hw, ⟨rfl, ?_, rfl, ?_, rfl, ?_, ?_, fun _ => rfl, rfl, rfl, ⟨rfl, rfl, rfl, rfl, rfl, rfl⟩⟩⟩
      · intro _ h; exact absurd rfl h
      · intro j _ hj; exact State.reg_congr_gpr (by rfl) hj
      · intro _; exact ⟨rfl, rfl, rfl⟩
      · intro _ h; exact absurd h hm
    · exact absurd (h rfl hm).1 hu
    · have := (h rfl hm).2; rw [h15] at this; cases this
  · refine ⟨((s.track k).advance).setGpr rd v, by simp [finish, writeReg, h1], ⟨rfl, ?_, rfl, ?_, rfl, ?_, ?_,
      fun _ => rfl, rfl, rfl, ⟨rfl, rfl, rfl, rfl, rfl, rfl⟩⟩⟩
    · intro h0 _; exact State.reg_setGpr_same _ v h0 h1
    · intro j hj _
      rw [State.reg_setGpr_other _ v hj]
      exact State.reg_congr rfl rfl j
    · intro _; exact ⟨rfl, rfl, rfl⟩
    · intro h; exact absurd h h1

/-- Everything an instruction with a destination can do when it answers a state. -/
theorem finish_next {k : Executed} {rd : RegIdx} {v : Word} {s t : State} (h : finish k rd v s = .next t) :
    DestOk s rd v ∧ RegisterEffect k s.sr.flags s.bus rd v s t := by
  have hd : DestOk s rd v := by
    rintro rfl hm
    rcases writeReg_next h with ⟨h1, _⟩ | ⟨_, hm', _⟩ | ⟨_, _, hu, h15, _⟩
    · exact absurd rfl h1
    · exact absurd hm hm'
    · exact ⟨hu, h15⟩
  obtain ⟨t', ht', he⟩ := finish_effect (k := k) hd
  rw [ht'] at h
  cases h
  exact ⟨hd, he⟩

/-- What `finish` answers after the flags were set: the effect of an addition or a subtraction. -/
theorem finish_effect_flags {k : Executed} {rd : RegIdx} {v : Word} {s : State} {f : AluFlags} (h : DestOk s rd v) :
    ∃ t, finish k rd v (s.setFlags f) = .next t ∧ RegisterEffect k f s.bus rd v s t := by
  obtain ⟨t, ht, e⟩ := finish_effect (k := k) (rd := rd) (v := v) (s := s.setFlags f) h
  exact ⟨t, ht, e.pc, e.dest, e.zero,
    fun j hj h1 => (e.others j hj h1).trans (State.reg_congr_gpr (s := s) (t := s.setFlags f) rfl h1), e.flags,
    e.permissions, e.statusWritten, e.memory, e.trackers, e.busRecord, e.untouched.imem, e.untouched.map,
    e.untouched.pins, e.untouched.extWait, e.untouched.extcatch, e.untouched.tick⟩

/-- What `finishLoad` answers when the platform gives the value: the effect of a load. -/
theorem finishLoad_effect {rd : RegIdx} {m : BusMode} {a v : Word} {s : State} (h : DestOk s rd v) :
    ∃ t, finishLoad rd m a (some v) s = .next t ∧
      RegisterEffect (.load rd) s.sr.flags (some { mode := m, addr := a, dataOut := none }) rd v s t := by
  obtain ⟨t, ht, e⟩ := finish_effect (k := .load rd) (rd := rd) (v := v) (s := s.withRead m a) h
  exact ⟨t, ht, e.pc, e.dest, e.zero,
    fun j hj h1 => (e.others j hj h1).trans (State.reg_congr_gpr (s := s) (t := s.withRead m a) rfl h1), e.flags,
    e.permissions, e.statusWritten, e.memory, e.trackers, e.busRecord, e.untouched.imem, e.untouched.map,
    e.untouched.pins, e.untouched.extWait, e.untouched.extcatch, e.untouched.tick⟩

theorem finish_fault {k : Executed} {rd : RegIdx} {v : Word} {s : State} {f : Fault} : finish k rd v s ≠ .fault f :=
  writeReg_fault

/-! ### Loads and stores -/

/-- Everything a load can do when it answers a state. -/
theorem finishLoad_next {rd : RegIdx} {m : BusMode} {a : Word} {v : Option Word} {s t : State}
    (h : finishLoad rd m a v s = .next t) :
    ∃ w, v = some w ∧ finish (.load rd) rd w (s.withRead m a) = .next t := by
  cases v with
  | none => cases h
  | some w => exact ⟨w, rfl, h⟩

theorem memWrite_some {s t : State} {a : Word} {bs : List Byte} (h : memWrite s a bs = some t) :
    dataBacked s a.toNat bs.length = true ∧ t = s.storeBytes a.toNat bs := by
  simp only [memWrite] at h
  split at h
  · next hb => exact ⟨hb, (Option.some.inj h).symm⟩
  · cases h

/-- Everything a store can do when it answers a state. -/
theorem finishStore_next {m : BusMode} {a d : Word} {bs : List Byte} {s t : State}
    (h : finishStore m a d bs s = .next t) :
    dataBacked s a.toNat bs.length = true ∧
      t = (((s.storeBytes a.toNat bs).withWrite m a d).track .plain).advance := by
  simp only [finishStore] at h
  split at h
  · cases h
  · next s' hs =>
    obtain ⟨hb, rfl⟩ := memWrite_some hs
    cases h
    exact ⟨hb, rfl⟩

theorem dataBacked_iff {s : State} {a n : Nat} :
    dataBacked s a n = true ↔ ∀ k < n, regionAt s.map (a + k) ≠ none := by
  induction n generalizing a with
  | zero => simp [dataBacked]
  | succ n ih =>
    simp only [dataBacked, Bool.and_eq_true, ih, Option.isSome_iff_ne_none]
    constructor
    · rintro ⟨h, h'⟩ k hk
      cases k with
      | zero => exact h
      | succ k =>
        have := h' k (by omega)
        rwa [show a + 1 + k = a + (k + 1) by omega] at this
    · intro h
      refine ⟨h 0 (by omega), fun k hk => ?_⟩
      have := h (k + 1) (by omega)
      rwa [show a + (k + 1) = a + 1 + k by omega] at this

/-- What `finishStore` answers when the platform backs every byte: the effect of a store. -/
theorem finishStore_effect {m : BusMode} {a d : Word} {bs : List Byte} {s : State}
    (h : ∀ k < bs.length, regionAt s.map (a.toNat + k) ≠ none) :
    ∃ t, finishStore m a d bs s = .next t ∧
      StoreEffect a.toNat bs { mode := m, addr := a, dataOut := some d } s t := by
  refine ⟨(((s.storeBytes a.toNat bs).withWrite m a d).track .plain).advance,
    by simp only [finishStore, memWrite, if_pos (dataBacked_iff.mpr h)],
    rfl, fun j => State.reg_congr rfl rfl j, rfl, fun k hk hram => ?_, fun k hk hdev => ?_, fun b hb => ?_, rfl, rfl,
    rfl, rfl, rfl, rfl, rfl, rfl⟩
  · exact (read_storeCells_inside _ _ _ _ _ hk).trans (if_pos hram)
  · exact (read_storeCells_inside _ _ _ _ _ hk).trans (if_neg (by rw [hdev]; simp))
  · exact read_storeCells_outside _ _ _ hb

/-! ### Addresses -/

theorem align2_toNat (ea : Word) : (align2 ea).toNat = ea.toNat / 2 * 2 := by
  have h : align2 ea = (ea >>> 1) <<< 1 := by
    refine BitVec.eq_of_getLsbD_eq fun k hk => ?_
    simp only [align2, BitVec.getLsbD_and, BitVec.getLsbD_shiftLeft, BitVec.getLsbD_ushiftRight]
    interval_cases k <;> simp
  rw [h, BitVec.toNat_shiftLeft, BitVec.toNat_ushiftRight, Nat.shiftRight_eq_div_pow, Nat.shiftLeft_eq]
  have := ea.isLt
  omega

theorem align4_toNat (ea : Word) : (align4 ea).toNat = ea.toNat / 4 * 4 := by
  have h : align4 ea = (ea >>> 2) <<< 2 := by
    refine BitVec.eq_of_getLsbD_eq fun k hk => ?_
    simp only [align4, BitVec.getLsbD_and, BitVec.getLsbD_shiftLeft, BitVec.getLsbD_ushiftRight]
    interval_cases k <;> simp
  rw [h, BitVec.toNat_shiftLeft, BitVec.toNat_ushiftRight, Nat.shiftRight_eq_div_pow, Nat.shiftLeft_eq]
  have := ea.isLt
  omega

/-- The low two bits of pc say whether it is a multiple of 4. -/
theorem low_bits_zero (pc : Word) : pc &&& 3#32 = 0#32 ↔ pc.toNat % 4 = 0 := by
  rw [← BitVec.toNat_inj, BitVec.toNat_and]
  have := Nat.and_two_pow_sub_one_eq_mod pc.toNat 2
  simp at this ⊢
  omega

/-! ### Jumps and interrupt entries -/

theorem jump_effect (s : State) (target : Word) : JumpEffect target s ((s.track .plain).jump target) :=
  ⟨rfl, fun j => State.reg_congr rfl rfl j, rfl, fun _ => rfl, rfl, rfl, rfl, rfl, rfl, rfl, rfl, rfl⟩

theorem link_effect (s : State) (target : Word) :
    LinkEffect target s (((s.track .plain).setGpr linkReg s.nextPc).jump target) :=
  ⟨rfl, State.reg_setGpr_same (s.track .plain) (i := linkReg) s.nextPc (by decide) (by decide),
    fun _ hj => State.reg_setGpr_other (s.track .plain) _ hj, rfl, fun _ => rfl, rfl, rfl, rfl, rfl, rfl, rfl, rfl,
    rfl⟩

/-- What every interrupt entry does to the state it is taken in. -/
theorem enterInterrupt_effect (entry : Word) (s : State) : EntryEffect entry s (enterInterrupt entry s) where
  pc := rfl
  returnAddress :=
    (State.reg_congr_gpr (s := s.setGpr returnReg s.pc) (t := enterInterrupt entry s) rfl (by decide)).trans
      (State.reg_setGpr_same s s.pc (by decide) (by decide))
  others := fun _ hj h1 =>
    (State.reg_congr_gpr (s := s.setGpr returnReg s.pc) (t := enterInterrupt entry s) rfl h1).trans
      (State.reg_setGpr_other s s.pc hj)
  prohibited := ⟨rfl, rfl⟩
  kernel := rfl
  flags := rfl
  memory := fun _ => rfl
  busRecord := rfl
  imem := rfl
  map := rfl
  pins := rfl
  tick := rfl

/-- Outside the window after an explicit write of GPR1 the tests of EIE and IIE see the fields as they are. -/
theorem tested_outside_window {s : State} (h : OutsideStatusWindow s) :
    iieTested s = s.sr.iie ∧ eieTested s = s.sr.eie := by
  have hw : inStatusWindow s = false := by rcases h with h | h <;> simp [inStatusWindow, h]
  simp [iieTested, eieTested, hw]

/-- The step's test of an external request is the acceptance condition of 60_exceptions.md R243. -/
theorem extRequested_iff (s : State) : extRequested s.pinsNow s.openStep = true ↔ RequestStands s := by
  rw [extRequested, Bool.and_eq_true]
  refine and_congr_right fun _ => ?_
  by_cases hw : OutsideStatusWindow s
  · rw [(tested_outside_window (s := s.openStep) hw).2]
    exact ⟨fun h => ⟨fun _ => h, fun n => absurd hw n⟩, fun h => h.1 hw⟩
  · have he : eieTested s.openStep = if Config.seesNewEie (s.tick + 1) then s.sr.eie else s.trk.srOld.eie := by
      have : inStatusWindow s = true := by simpa [inStatusWindow, OutsideStatusWindow] using hw
      rw [eieTested, if_pos (show inStatusWindow s.openStep = true from this)]; rfl
    rw [he]
    exact ⟨fun h => ⟨fun y => absurd y hw, fun _ => h⟩, fun h => h.2 hw⟩

/-! ### The step -/

/-- Everything a boundary can lead to. -/
theorem atBoundary_cases (p : Pins) (s : State) :
    (extRequested p s = false ∧ atBoundary p s = .proceed { s with extWait := none }) ∨
    (extRequested p s = true ∧ extWaitNow s = 0 ∧ atBoundary p s = .taken (raiseExtInt { s with extWait := none })) ∨
    (extRequested p s = true ∧ ∃ n, extWaitNow s = n + 1 ∧ atBoundary p s = .proceed { s with extWait := some n }) := by
  cases hr : extRequested p s with
  | false => exact .inl ⟨rfl, by simp [atBoundary, hr]⟩
  | true =>
    cases hn : extWaitNow s with
    | zero => exact .inr (.inl ⟨rfl, rfl, by simp [atBoundary, hr, hn]⟩)
    | succ n => exact .inr (.inr ⟨rfl, n, rfl, by simp [atBoundary, hr, hn]⟩)

/-- Everything an instruction step can do when it answers a state. -/
theorem runInstruction_next {s t : State} (h : runInstruction s = .next t) :
    ∃ w i, fetch s = .word w ∧ decode w = .ok i ∧ exec i s = .next t := by
  simp only [runInstruction] at h
  split at h
  · cases h
  · cases h
  · next w hw =>
    split at h
    · cases h
    · next i hi => exact ⟨w, i, hw, hi, h⟩

/-- Everything a step can do when it answers a state: a reset, an external interrupt entry, or an instruction. -/
theorem step_next {s t : State} (h : step s = .next t) :
    (s.pinsNow.reset = true ∧ t = s.openStep.coreReset) ∨
    (s.pinsNow.reset = false ∧ extRequested s.pinsNow s.openStep = true ∧ extWaitNow s.openStep = 0 ∧
      t = raiseExtInt { s.openStep with extWait := none }) ∨
    (∃ w i, s.pinsNow.reset = false ∧ exec i { s.openStep with extWait := w } = .next t) := by
  simp only [step] at h
  split at h
  · next hr => cases h; exact .inl ⟨hr, rfl⟩
  · next hr =>
    have hr : s.pinsNow.reset = false := by simpa using hr
    rcases atBoundary_cases s.pinsNow s.openStep with ⟨_, hb⟩ | ⟨he, hn, hb⟩ | ⟨_, n, _, hb⟩ <;>
      simp only [hb] at h
    · obtain ⟨_, i, _, _, hx⟩ := runInstruction_next h
      exact .inr (.inr ⟨none, i, hr, hx⟩)
    · cases h; exact .inr (.inl ⟨hr, he, hn, rfl⟩)
    · obtain ⟨_, i, _, _, hx⟩ := runInstruction_next h
      exact .inr (.inr ⟨some n, i, hr, hx⟩)

end Sys2Proof.Machine
end

