-- ==== Sys2Proof/Laws/Exec.lean ====
section
/-!
SUPPORT. What an instruction can do when it answers a state: one of seven shapes, so that a law about every instruction
is a case analysis of seven cases and not of 45.
-/

namespace Sys2Proof.Machine

/-- The end of an instruction with a destination: `finish` on a state `b` that differs from `s` at most in the flags (ADD,
ADDI, SUB, SUBI) and the bus record (loads). -/
structure FinishShape (i : Instr) (s t : State) (k : Executed) (rd : RegIdx) (v : Word) (b : State) : Prop where
  answer : finish k rd v b = .next t
  dest : i.destOperand = some rd
  executed : executedDest k = some rd
  shadow : loadShadowAfter k = i.loadDest.filter (fun r => r ≠ zeroReg)
  flagWrite : sinceFlagWriteAfter k = (if i.writesFlags then .zero else .far)
  notNop : k ≠ .nop
  gpr : b.gpr = s.gpr
  pc : b.pc = s.pc
  sr : b.sr = { s.sr with flags := b.sr.flags }
  flags : i.writesFlags = false → b.sr.flags = s.sr.flags
  dmem : b.dmem = s.dmem
  trk : b.trk = s.trk
  bus : i.loadDest = none → b.bus = s.bus
  untouched : Untouched s b

/-- The shapes of an instruction's effect. -/
inductive ExecShape : Instr → State → State → Prop
  | finish {i : Instr} {s t : State} (k : Executed) (rd : RegIdx) (v : Word) (b : State)
      (shape : FinishShape i s t k rd v b) (noStore : i.stores = false) (noNop : i ≠ .nop) (noReti : i ≠ .reti)
      (noTrap : ∀ o, i ≠ .trap o) : ExecShape i s t
  | store {i : Instr} {s : State} (m : BusMode) (a d : Word) (bs : List Byte)
      (backed : dataBacked s a.toNat bs.length = true) (inSpace : a.toNat + bs.length ≤ 2 ^ 32)
      (stores : i.stores = true) (noDest : i.destOperand = none) (noLoad : i.loadDest = none)
      (noFlags : i.writesFlags = false) (noNop : i ≠ .nop) :
      ExecShape i s (((s.storeBytes a.toNat bs).withWrite m a d).track .plain).advance
  | jump {i : Instr} {s : State} (target : Word) (noDest : i.destOperand = none) (noLoad : i.loadDest = none)
      (noFlags : i.writesFlags = false) (noStore : i.stores = false) (noNop : i ≠ .nop) :
      ExecShape i s ((s.track .plain).jump target)
  | link {i : Instr} {s : State} (target : Word) (which : (∃ o, i = .jpl o) ∨ ∃ r, i = .jprl r)
      (noDest : i.destOperand = none) (noLoad : i.loadDest = none) (noFlags : i.writesFlags = false)
      (noStore : i.stores = false) (noNop : i ≠ .nop) :
      ExecShape i s (((s.track .plain).setGpr linkReg s.nextPc).jump target)
  | nop {s : State} : ExecShape .nop s (s.track .nop).advance
  | reti {s : State} : ExecShape .reti s (returnFromInterrupt (readReg s .first returnReg) (s.track .plain))
  | trap {s : State} {off : BitVec 26} : ExecShape (.trap off) s (raiseTrap off (s.track .plain))

/-- The shape of an instruction with a destination that is no load and writes no flag. -/
theorem finishShape_of_finish {i : Instr} {named : List RegIdx} {rd : RegIdx} {v : Word} {s t : State}
    (h : guarded named s (finish (.dest rd) rd v s) = .next t) (hd : i.destOperand = some rd) (hl : i.loadDest = none)
    (hf : i.writesFlags = false) : FinishShape i s t (.dest rd) rd v s where
  answer := (guarded_next h).2
  dest := hd
  executed := rfl
  shadow := by rw [hl]; rfl
  flagWrite := by rw [hf]; rfl
  notNop := by simp
  gpr := rfl
  pc := rfl
  sr := rfl
  flags := fun _ => rfl
  dmem := rfl
  trk := rfl
  bus := fun _ => rfl
  untouched := ⟨rfl, rfl, rfl, rfl, rfl, rfl⟩

/-- The shape of ADD, ADDI, SUB and SUBI. -/
theorem finishShape_of_flags {i : Instr} {named : List RegIdx} {rd : RegIdx} {v : Word} {s t : State} {f : AluFlags}
    (h : guarded named s (finish (.flagged rd) rd v (s.setFlags f)) = .next t) (hd : i.destOperand = some rd)
    (hl : i.loadDest = none) (hf : i.writesFlags = true) :
    FinishShape i s t (.flagged rd) rd v (s.setFlags f) where
  answer := (guarded_next h).2
  dest := hd
  executed := rfl
  shadow := by rw [hl]; rfl
  flagWrite := by rw [hf]; rfl
  notNop := by simp
  gpr := rfl
  pc := rfl
  sr := rfl
  flags := fun h => absurd (hf.symm.trans h) (by simp)
  dmem := rfl
  trk := rfl
  bus := fun _ => rfl
  untouched := ⟨rfl, rfl, rfl, rfl, rfl, rfl⟩

/-- The shape of LB, LH and LW. -/
theorem finishShape_of_load {i : Instr} {named : List RegIdx} {rd : RegIdx} {m : BusMode} {a : Word}
    {o : Option Word} {s t : State} (h : guarded named s (finishLoad rd m a o s) = .next t)
    (hd : i.destOperand = some rd) (hl : i.loadDest = some rd) (hf : i.writesFlags = false) :
    ∃ v, FinishShape i s t (.load rd) rd v (s.withRead m a) := by
  obtain ⟨w, _, h'⟩ := finishLoad_next (guarded_next h).2
  exact ⟨w, {
    answer := h'
    dest := hd
    executed := rfl
    shadow := by
      rw [hl, loadShadowAfter]
      by_cases h0 : rd = zeroReg <;> simp [h0, Option.filter]
    flagWrite := by rw [hf]; rfl
    notNop := by simp
    gpr := rfl
    pc := rfl
    sr := rfl
    flags := fun _ => rfl
    dmem := rfl
    trk := rfl
    bus := fun h => absurd (hl.symm.trans h) (by simp)
    untouched := ⟨rfl, rfl, rfl, rfl, rfl, rfl⟩ }⟩

/-- The shape of SB, SH and SW. -/
theorem execShape_of_store {i : Instr} {named : List RegIdx} {m : BusMode} {a d : Word} {bs : List Byte}
    {s t : State} (h : guarded named s (finishStore m a d bs s) = .next t) (hb : a.toNat + bs.length ≤ 2 ^ 32)
    (hs : i.stores = true) (hd : i.destOperand = none) (hl : i.loadDest = none) (hf : i.writesFlags = false)
    (hn : i ≠ .nop) : ExecShape i s t := by
  obtain ⟨hk, rfl⟩ := finishStore_next (guarded_next h).2
  exact .store m a d bs hk hb hs hd hl hf hn

/-- Everything an instruction can do when it answers a state. -/
theorem exec_next {i : Instr} {s t : State} (h : exec i s = .next t) : ExecShape i s t := by
  cases i
  case nop => cases h; exact .nop
  case reti => cases h; exact .reti
  case trap off =>
    simp only [exec, execTrap] at h
    split at h
    · split at h
      · cases h
      · cases h; exact .trap
    · cases h; exact .jump s.nextPc rfl rfl rfl rfl (by simp)
  case jp off => cases h; exact .jump _ rfl rfl rfl rfl (by simp)
  case jpl off => cases h; exact .link _ (.inl ⟨_, rfl⟩) rfl rfl rfl rfl (by simp)
  case jpr r => cases (guarded_next h).2; exact .jump _ rfl rfl rfl rfl (by simp)
  case jprl r => cases (guarded_next h).2; exact .link _ (.inr ⟨_, rfl⟩) rfl rfl rfl rfl (by simp)
  case brz r o => cases (guarded_next h).2; exact .jump _ rfl rfl rfl rfl (by simp)
  case brnz r o => cases (guarded_next h).2; exact .jump _ rfl rfl rfl rfl (by simp)
  case sb o r d =>
    have := (storeAddress s r o).isLt
    exact execShape_of_store h (by simp [storeBytes1]; omega) rfl rfl rfl rfl (by simp)
  case sh o r d =>
    have := (storeAddress s r o).isLt
    exact execShape_of_store h (by rw [align2_toNat]; simp [storeBytes2]; omega) rfl rfl rfl rfl (by simp)
  case sw o r d =>
    have := (storeAddress s r o).isLt
    exact execShape_of_store h (by rw [align4_toNat]; simp [storeBytes4, bytesOfWord]; omega) rfl rfl rfl rfl (by simp)
  case lb rd o r =>
    obtain ⟨v, hv⟩ := finishShape_of_load (i := .lb rd o r) h rfl rfl rfl
    exact .finish _ _ v _ hv rfl (by simp) (by simp) (by simp)
  case lh rd o r =>
    obtain ⟨v, hv⟩ := finishShape_of_load (i := .lh rd o r) h rfl rfl rfl
    exact .finish _ _ v _ hv rfl (by simp) (by simp) (by simp)
  case lw rd o r =>
    obtain ⟨v, hv⟩ := finishShape_of_load (i := .lw rd o r) h rfl rfl rfl
    exact .finish _ _ v _ hv rfl (by simp) (by simp) (by simp)
  case add | addi | sub | subi =>
    exact .finish _ _ _ _ (finishShape_of_flags h rfl rfl rfl) rfl (by simp) (by simp) (by simp)
  all_goals exact .finish _ _ _ _ (finishShape_of_finish h rfl rfl rfl) rfl (by simp) (by simp) (by simp)

end Sys2Proof.Machine
end

