-- ==== Sys2Proof/Laws/PerInstr.lean ====
section
/-!
SUPPORT. Per-instruction laws. `MatchesRow`: the encoded word has the fixed bits of the instruction's row of
opcode_table.json, whatever the operands are.
-/

namespace Sys2Proof.Laws

/-- The fixed bits of the instruction's row of opcode_table.json: high bit, low bit, value. -/
def fixedBits : Instr → List (Nat × Nat × Nat)
  | .add _ _ _ => [(16, 0, 1)]
  | .sub _ _ _ => [(16, 0, 65)]
  | .mul _ _ _ => [(16, 0, 129)]
  | .div _ _ _ => [(16, 0, 193)]
  | .mod _ _ _ => [(16, 0, 257)]
  | .divu _ _ _ => [(16, 0, 321)]
  | .modu _ _ _ => [(16, 0, 385)]
  | .and _ _ _ => [(16, 0, 16385)]
  | .or _ _ _ => [(16, 0, 16449)]
  | .xor _ _ _ => [(16, 0, 16513)]
  | .nand _ _ _ => [(16, 0, 16577)]
  | .nor _ _ _ => [(16, 0, 16641)]
  | .lls _ _ _ => [(16, 0, 32769)]
  | .lrs _ _ _ => [(16, 0, 32833)]
  | .ars _ _ _ => [(16, 0, 32897)]
  | .elt _ _ _ => [(16, 0, 49153)]
  | .eltu _ _ _ => [(16, 0, 49217)]
  | .eeq _ _ _ => [(16, 0, 49281)]
  | .eneq _ _ _ => [(16, 0, 49345)]
  | .addi _ _ _ => [(5, 0, 32)]
  | .subi _ _ _ => [(5, 0, 33)]
  | .andi _ _ _ => [(5, 0, 34)]
  | .ori _ _ _ => [(5, 0, 35)]
  | .xori _ _ _ => [(5, 0, 36)]
  | .llsi _ _ _ => [(5, 0, 37)]
  | .lrsi _ _ _ => [(5, 0, 38)]
  | .arsi _ _ _ => [(5, 0, 39)]
  | .lsoi _ _ _ => [(5, 0, 40)]
  | .lb _ _ _ => [(5, 0, 2)]
  | .lh _ _ _ => [(5, 0, 3)]
  | .lw _ _ _ => [(5, 0, 4)]
  | .sb _ _ _ => [(5, 0, 5)]
  | .sh _ _ _ => [(5, 0, 6)]
  | .sw _ _ _ => [(5, 0, 7)]
  | .brz _ _ => [(10, 0, 9)]
  | .brnz _ _ => [(10, 0, 10)]
  | .jp _ => [(5, 0, 11)]
  | .jpl _ => [(5, 0, 12)]
  | .trap _ => [(5, 0, 13)]
  | .jpr _ => [(5, 0, 14), (31, 11, 0)]
  | .jprl _ => [(5, 0, 15), (31, 11, 0)]
  | .nop => [(31, 0, 0)]
  | .reti => [(31, 0, 64)]
  | .exbw _ _ => [(21, 0, 128)]
  | .exhw _ _ => [(21, 0, 2176)]

/-- `w` has the given bits in each of the given fields. -/
abbrev HasBits (w : Word) (fields : List (Nat × Nat × Nat)) : Prop :=
  ∀ f ∈ fields, w.toNat / 2 ^ f.2.1 % 2 ^ (f.1 + 1 - f.2.1) = f.2.2

theorem hasBits_rr (f : BitVec 11) (rd rs1 rs2 : RegIdx) {v : Nat} (h : f.toNat * 64 + 1 = v) :
    HasBits (encodeRR f rd rs1 rs2) [(16, 0, v)] := by
  simp only [HasBits, List.forall_mem_singleton, encodeRR_toNat]
  omega

theorem hasBits_ri (op : BitVec 6) (imm : Half) (hi lo : RegIdx) {v : Nat} (h : op.toNat = v) :
    HasBits (encodeRI op imm hi lo) [(5, 0, v)] := by
  simp only [HasBits, List.forall_mem_singleton, encodeRI_toNat]
  omega

theorem hasBits_br (op : BitVec 6) (off : Half) (rs1 : RegIdx) {v : Nat} (h : op.toNat = v) :
    HasBits (encodeRI op off rs1 0) [(10, 0, v)] := by
  simp only [HasBits, List.forall_mem_singleton, encodeRI_toNat]
  simp
  omega

theorem hasBits_jp (op : BitVec 6) (off : BitVec 26) {v : Nat} (h : op.toNat = v) :
    HasBits (encodeJP op off) [(5, 0, v)] := by
  simp only [HasBits, List.forall_mem_singleton, encodeJP_toNat]
  omega

theorem hasBits_jpr (op : BitVec 6) (rs1 : RegIdx) {v : Nat} (h : op.toNat = v) :
    HasBits (encodeLow op rs1) [(5, 0, v), (31, 11, 0)] := by
  simp only [HasBits, List.forall_mem_cons, List.not_mem_nil, encodeLow_toNat]
  refine ⟨?_, ?_, ?_⟩ <;> simp <;> omega

theorem hasBits_rt (f : BitVec 11) (rd rs1 : RegIdx) {v : Nat} (h : f.toNat * 2048 + 128 = v) :
    HasBits (encodeRT f rd rs1) [(21, 0, v)] := by
  simp only [HasBits, List.forall_mem_singleton, encodeRT_toNat]
  omega

/-- The encoded word has the fixed bits of the instruction's row (30_encoding.md R92). -/
def MatchesRow.Statement (i : Instr) : Prop :=
  HasBits (encode i) (fixedBits i)

theorem MatchesRow.add (rd rs1 rs2 : RegIdx) : MatchesRow.Statement (.add rd rs1 rs2) := hasBits_rr _ rd rs1 rs2 rfl

theorem MatchesRow.sub (rd rs1 rs2 : RegIdx) : MatchesRow.Statement (.sub rd rs1 rs2) := hasBits_rr _ rd rs1 rs2 rfl

theorem MatchesRow.mul (rd rs1 rs2 : RegIdx) : MatchesRow.Statement (.mul rd rs1 rs2) := hasBits_rr _ rd rs1 rs2 rfl

theorem MatchesRow.div (rd rs1 rs2 : RegIdx) : MatchesRow.Statement (.div rd rs1 rs2) := hasBits_rr _ rd rs1 rs2 rfl

theorem MatchesRow.mod (rd rs1 rs2 : RegIdx) : MatchesRow.Statement (.mod rd rs1 rs2) := hasBits_rr _ rd rs1 rs2 rfl

theorem MatchesRow.divu (rd rs1 rs2 : RegIdx) : MatchesRow.Statement (.divu rd rs1 rs2) := hasBits_rr _ rd rs1 rs2 rfl

theorem MatchesRow.modu (rd rs1 rs2 : RegIdx) : MatchesRow.Statement (.modu rd rs1 rs2) := hasBits_rr _ rd rs1 rs2 rfl

theorem MatchesRow.and (rd rs1 rs2 : RegIdx) : MatchesRow.Statement (.and rd rs1 rs2) := hasBits_rr _ rd rs1 rs2 rfl

theorem MatchesRow.or (rd rs1 rs2 : RegIdx) : MatchesRow.Statement (.or rd rs1 rs2) := hasBits_rr _ rd rs1 rs2 rfl

theorem MatchesRow.xor (rd rs1 rs2 : RegIdx) : MatchesRow.Statement (.xor rd rs1 rs2) := hasBits_rr _ rd rs1 rs2 rfl

theorem MatchesRow.nand (rd rs1 rs2 : RegIdx) : MatchesRow.Statement (.nand rd rs1 rs2) := hasBits_rr _ rd rs1 rs2 rfl

theorem MatchesRow.nor (rd rs1 rs2 : RegIdx) : MatchesRow.Statement (.nor rd rs1 rs2) := hasBits_rr _ rd rs1 rs2 rfl

theorem MatchesRow.lls (rd rs1 rs2 : RegIdx) : MatchesRow.Statement (.lls rd rs1 rs2) := hasBits_rr _ rd rs1 rs2 rfl

theorem MatchesRow.lrs (rd rs1 rs2 : RegIdx) : MatchesRow.Statement (.lrs rd rs1 rs2) := hasBits_rr _ rd rs1 rs2 rfl

theorem MatchesRow.ars (rd rs1 rs2 : RegIdx) : MatchesRow.Statement (.ars rd rs1 rs2) := hasBits_rr _ rd rs1 rs2 rfl

theorem MatchesRow.elt (rd rs1 rs2 : RegIdx) : MatchesRow.Statement (.elt rd rs1 rs2) := hasBits_rr _ rd rs1 rs2 rfl

theorem MatchesRow.eltu (rd rs1 rs2 : RegIdx) : MatchesRow.Statement (.eltu rd rs1 rs2) := hasBits_rr _ rd rs1 rs2 rfl

theorem MatchesRow.eeq (rd rs1 rs2 : RegIdx) : MatchesRow.Statement (.eeq rd rs1 rs2) := hasBits_rr _ rd rs1 rs2 rfl

theorem MatchesRow.eneq (rd rs1 rs2 : RegIdx) : MatchesRow.Statement (.eneq rd rs1 rs2) := hasBits_rr _ rd rs1 rs2 rfl

theorem MatchesRow.addi (rd rs1 : RegIdx) (imm : Half) : MatchesRow.Statement (.addi rd rs1 imm) :=
  hasBits_ri _ imm rs1 rd rfl

theorem MatchesRow.subi (rd rs1 : RegIdx) (imm : Half) : MatchesRow.Statement (.subi rd rs1 imm) :=
  hasBits_ri _ imm rs1 rd rfl

theorem MatchesRow.andi (rd rs1 : RegIdx) (imm : Half) : MatchesRow.Statement (.andi rd rs1 imm) :=
  hasBits_ri _ imm rs1 rd rfl

theorem MatchesRow.ori (rd rs1 : RegIdx) (imm : Half) : MatchesRow.Statement (.ori rd rs1 imm) :=
  hasBits_ri _ imm rs1 rd rfl

theorem MatchesRow.xori (rd rs1 : RegIdx) (imm : Half) : MatchesRow.Statement (.xori rd rs1 imm) :=
  hasBits_ri _ imm rs1 rd rfl

theorem MatchesRow.llsi (rd rs1 : RegIdx) (imm : Half) : MatchesRow.Statement (.llsi rd rs1 imm) :=
  hasBits_ri _ imm rs1 rd rfl

theorem MatchesRow.lrsi (rd rs1 : RegIdx) (imm : Half) : MatchesRow.Statement (.lrsi rd rs1 imm) :=
  hasBits_ri _ imm rs1 rd rfl

theorem MatchesRow.arsi (rd rs1 : RegIdx) (imm : Half) : MatchesRow.Statement (.arsi rd rs1 imm) :=
  hasBits_ri _ imm rs1 rd rfl

theorem MatchesRow.lsoi (rd rs1 : RegIdx) (imm : Half) : MatchesRow.Statement (.lsoi rd rs1 imm) :=
  hasBits_ri _ imm rs1 rd rfl

theorem MatchesRow.lb (rd : RegIdx) (off : Half) (rs1 : RegIdx) : MatchesRow.Statement (.lb rd off rs1) :=
  hasBits_ri _ off rs1 rd rfl

theorem MatchesRow.lh (rd : RegIdx) (off : Half) (rs1 : RegIdx) : MatchesRow.Statement (.lh rd off rs1) :=
  hasBits_ri _ off rs1 rd rfl

theorem MatchesRow.lw (rd : RegIdx) (off : Half) (rs1 : RegIdx) : MatchesRow.Statement (.lw rd off rs1) :=
  hasBits_ri _ off rs1 rd rfl

theorem MatchesRow.sb (off : Half) (rd rs1 : RegIdx) : MatchesRow.Statement (.sb off rd rs1) :=
  hasBits_ri _ off rs1 rd rfl

theorem MatchesRow.sh (off : Half) (rd rs1 : RegIdx) : MatchesRow.Statement (.sh off rd rs1) :=
  hasBits_ri _ off rs1 rd rfl

theorem MatchesRow.sw (off : Half) (rd rs1 : RegIdx) : MatchesRow.Statement (.sw off rd rs1) :=
  hasBits_ri _ off rs1 rd rfl

theorem MatchesRow.brz (rs1 : RegIdx) (off : Half) : MatchesRow.Statement (.brz rs1 off) := hasBits_br _ off rs1 rfl

theorem MatchesRow.brnz (rs1 : RegIdx) (off : Half) : MatchesRow.Statement (.brnz rs1 off) := hasBits_br _ off rs1 rfl

theorem MatchesRow.jp (off : BitVec 26) : MatchesRow.Statement (.jp off) := hasBits_jp _ off rfl

theorem MatchesRow.jpl (off : BitVec 26) : MatchesRow.Statement (.jpl off) := hasBits_jp _ off rfl

theorem MatchesRow.trap (off : BitVec 26) : MatchesRow.Statement (.trap off) := hasBits_jp _ off rfl

theorem MatchesRow.jpr (rs1 : RegIdx) : MatchesRow.Statement (.jpr rs1) := hasBits_jpr _ rs1 rfl

theorem MatchesRow.jprl (rs1 : RegIdx) : MatchesRow.Statement (.jprl rs1) := hasBits_jpr _ rs1 rfl

theorem MatchesRow.nop : MatchesRow.Statement .nop := List.forall_mem_singleton.mpr rfl

theorem MatchesRow.reti : MatchesRow.Statement .reti := List.forall_mem_singleton.mpr rfl

theorem MatchesRow.exbw (rd rs1 : RegIdx) : MatchesRow.Statement (.exbw rd rs1) := hasBits_rt _ rd rs1 rfl

theorem MatchesRow.exhw (rd rs1 : RegIdx) : MatchesRow.Statement (.exhw rd rs1) := hasBits_rt _ rd rs1 rfl

end Sys2Proof.Laws
end

