-- ==== Sys2Proof/Tests/Slice0.lean ====
section
/-!
SUPPORT. Tests. The expected values are the spec's: the examples of the instruction rules and the derived vectors `T<n>` of
95_test_vectors.md. The second half shows, for each statement that has hypotheses, operands and a state that meet them.
-/

namespace Sys2Proof.Tests

open Sys2Proof.Machine

/-! ### Well-formedness: an ill-formed term for each check that can fail -/

theorem test_region_empty_refused : Region.wellFormed { base := 0x1000, size := 0, kind := .ram } = false := by decide

theorem test_region_past_the_end_refused :
    Region.wellFormed { base := 0xFFFFFFFC, size := 5, kind := .ram } = false ∧
    Region.wellFormed { base := 0xFFFFFFFC, size := 4, kind := .ram } = true := by decide

theorem test_map_overlap_refused :
    mapWellFormed [{ base := 0, size := 8, kind := .ram }, { base := 7, size := 4, kind := .device }] = false ∧
    mapWellFormed [{ base := 0, size := 8, kind := .ram }, { base := 8, size := 4, kind := .device }] = true := by decide

theorem test_reset_map_wellFormed : mapWellFormed State.reset.map = true := by decide

theorem test_reset_memory_wf : State.reset.dmem.wf = true ∧ State.reset.imem.wf = true := by decide

theorem test_memory_not_canonical :
    Memory.wf [(4, 0#8)] = false ∧ Memory.wf [(4, 1#8), (4, 2#8)] = false ∧ Memory.wf [(5, 1#8), (4, 2#8)] = false ∧
    Memory.wf [(2 ^ 32, 1#8)] = false ∧ Memory.wf [(4, 1#8), (5, 2#8)] = true := by decide

/-! ### Decoding: one word of each row, as the examples of the instruction rules print it -/

theorem test_decode_arithmetic :
    decode 0x8CA00001#32 = .ok (.add 16 17 18) ∧
    decode 0xFFFF8C20#32 = .ok (.addi 16 17 0xFFFF) ∧
    decode 0x8CA00041#32 = .ok (.sub 16 17 18) ∧
    decode 0x00018C21#32 = .ok (.subi 16 17 1) ∧
    decode 0x8CA00081#32 = .ok (.mul 16 17 18) ∧
    decode 0x8CA000C1#32 = .ok (.div 16 17 18) ∧
    decode 0x8CA00141#32 = .ok (.divu 16 17 18) ∧
    decode 0x8CA00101#32 = .ok (.mod 16 17 18) ∧
    decode 0x8CA00181#32 = .ok (.modu 16 17 18) := by decide

theorem test_decode_logical :
    decode 0x8CA04001#32 = .ok (.and 16 17 18) ∧
    decode 0xFF008C22#32 = .ok (.andi 16 17 0xFF00) ∧
    decode 0x8CA04041#32 = .ok (.or 16 17 18) ∧
    decode 0x12340423#32 = .ok (.ori 16 0 0x1234) ∧
    decode 0x8CA04081#32 = .ok (.xor 16 17 18) ∧
    decode 0xFFFF8C24#32 = .ok (.xori 16 17 0xFFFF) ∧
    decode 0x8CA040C1#32 = .ok (.nand 16 17 18) ∧
    decode 0x8CA04101#32 = .ok (.nor 16 17 18) := by decide

theorem test_decode_shift :
    decode 0x8CA08001#32 = .ok (.lls 16 17 18) ∧
    decode 0x00048C25#32 = .ok (.llsi 16 17 4) ∧
    decode 0x8CA08041#32 = .ok (.lrs 16 17 18) ∧
    decode 0x00048C26#32 = .ok (.lrsi 16 17 4) ∧
    decode 0x8CA08081#32 = .ok (.ars 16 17 18) ∧
    decode 0x00048C27#32 = .ok (.arsi 16 17 4) ∧
    decode 0x56788428#32 = .ok (.lsoi 16 16 0x5678) := by decide

theorem test_decode_compare_extend :
    decode 0x8CA0C001#32 = .ok (.elt 16 17 18) ∧
    decode 0x8CA0C041#32 = .ok (.eltu 16 17 18) ∧
    decode 0x8CA0C081#32 = .ok (.eeq 16 17 18) ∧
    decode 0x8CA0C0C1#32 = .ok (.eneq 16 17 18) ∧
    decode 0x84400080#32 = .ok (.exbw 16 17) ∧
    decode 0x84400880#32 = .ok (.exhw 16 17) := by decide

theorem test_decode_load_store :
    decode 0xFFFF8C02#32 = .ok (.lb 16 0xFFFF 17) ∧
    decode 0x00028C03#32 = .ok (.lh 16 2 17) ∧
    decode 0x00048C04#32 = .ok (.lw 16 4 17) ∧
    decode 0x00038C05#32 = .ok (.sb 3 16 17) ∧
    decode 0x00028C06#32 = .ok (.sh 2 16 17) ∧
    decode 0x00008C07#32 = .ok (.sw 0 16 17) := by decide

theorem test_decode_control :
    decode 0x00088009#32 = .ok (.brz 16 8) ∧
    decode 0xFFF4800A#32 = .ok (.brnz 16 0xFFF4) ∧
    decode 0x0000020B#32 = .ok (.jp 8) ∧
    decode 0x0000400C#32 = .ok (.jpl 0x100) ∧
    decode 0x000000CE#32 = .ok (.jpr 3) ∧
    decode 0x0000040F#32 = .ok (.jprl 16) := by decide

theorem test_decode_system :
    decode 0x00000000#32 = .ok (.nop) ∧
    decode 0x00000040#32 = .ok (.reti) ∧
    decode 0x0000040D#32 = .ok (.trap 0x10) := by decide

/-- 95_test_vectors.md, table 2.9. -/
theorem test_decode_refused :
    decode 0x00000800#32 = .error .reservedField ∧
    decode 0x00000049#32 = .error .reservedField ∧
    decode 0x0000080E#32 = .error .reservedField ∧
    decode 0x000000C0#32 = .error .unallocated ∧
    decode 0x00001080#32 = .error .unallocated ∧
    decode 0x00000008#32 = .error .unallocated ∧
    decode 0x00000010#32 = .error .unallocated ∧
    decode 0x00000029#32 = .error .unallocated ∧
    decode 0x0000003F#32 = .error .unallocated ∧
    decode 0x000001C1#32 = .error .unallocated ∧
    decode 0x0001FFC1#32 = .error .unallocated := by decide

theorem test_decodeBytes_big_endian :
    decodeBytes [0xFF#8, 0xFF#8, 0x8C#8, 0x20#8] = .ok (.addi 16 17 0xFFFF) ∧
    decodeBytes [0x8C#8, 0xA0#8, 0x00#8] = .error .notFourBytes := by decide

/-! ### One step -/

/-- The start state of 95_test_vectors.md, section 2: pc 0x10000000, the given registers, else as after reset. -/
def start (regs : List (RegIdx × Word)) : State :=
  regs.foldl (fun s p => s.setGpr p.1 p.2) { State.reset with pc := 0x10000000#32 }

/-- The status register set to the given fields. -/
def withStatus (eie iie : Bool) (mode : BitVec 2) (c z s v : Bool) (t : State) : State :=
  { t with sr := { flags := { c := c, z := z, s := s, v := v }, eie := eie, iie := iie, mode := mode } }

/-- Two NOPs were executed just before. -/
def afterNops (t : State) : State := { t with trk := { t.trk with nopRun := 2 } }

/-- The data memory of 95_test_vectors.md, section 2.5. -/
def withData (t : State) : State :=
  { t with
    map := [{ base := 0x1000, size := 8, kind := .ram }, { base := 0xFFFFFFFC, size := 4, kind := .ram }]
    dmem := [(0x1000, 0x11#8), (0x1001, 0x22#8), (0x1002, 0x33#8), (0x1003, 0x44#8), (0x1004, 0x80#8),
      (0x1005, 0x90#8), (0x1006, 0xA0#8), (0x1007, 0xB0#8), (0xFFFFFFFC, 0xDE#8), (0xFFFFFFFD, 0xAD#8),
      (0xFFFFFFFE, 0xBE#8), (0xFFFFFFFF, 0xEF#8)] }

/-- The state after one step that runs the word `w`. -/
def after (w : Nat) (s : State) : Option State :=
  match step (s.withFetchWord 32 w) with
  | .next t => some t
  | _ => none

/-- GPR16 after one step. -/
def r16 (w : Nat) (s : State) : Option Word := (after w s).map fun t => t.reg 16

/-- The flags C, Z, S, V after one step. -/
def czsv (w : Nat) (s : State) : Option (BitVec 4) := (after w s).map fun t => flagBits t.sr.flags

/-- The eight bytes from 0x1000 on after one step. -/
def bytes8 (w : Nat) (s : State) : Option (List Byte) :=
  (after w s).map fun t => (List.range 8).map fun k => t.dmem.read (0x1000 + k)

/-- T3. -/
theorem test_add_carry_overflow :
    r16 0x8CA00001 (start [(17, 0x80000000#32), (18, 0x80000000#32)]) = some 0x00000000#32 ∧
    czsv 0x8CA00001 (start [(17, 0x80000000#32), (18, 0x80000000#32)]) = some 0b1101#4 := by decide

/-- T1. -/
theorem test_add_overflow :
    r16 0x8CA00001 (start [(17, 0x7FFFFFFF#32), (18, 0x00000001#32)]) = some 0x80000000#32 ∧
    czsv 0x8CA00001 (start [(17, 0x7FFFFFFF#32), (18, 0x00000001#32)]) = some 0b0011#4 := by decide

/-- T6. -/
theorem test_addi_signed_immediate :
    r16 0xFFFF8C20 (start [(17, 0x00000005#32)]) = some 0x00000004#32 ∧
    czsv 0xFFFF8C20 (start [(17, 0x00000005#32)]) = some 0b1000#4 := by decide

/-- T7. -/
theorem test_addi_overflow :
    r16 0x7FFF8C20 (start [(17, 0x7FFFFFFF#32)]) = some 0x80007FFE#32 ∧
    czsv 0x7FFF8C20 (start [(17, 0x7FFFFFFF#32)]) = some 0b0011#4 := by decide

/-- T10. -/
theorem test_sub_overflow :
    r16 0x8CA00041 (start [(17, 0x80000000#32), (18, 0x00000001#32)]) = some 0x7FFFFFFF#32 ∧
    czsv 0x8CA00041 (start [(17, 0x80000000#32), (18, 0x00000001#32)]) = some 0b1001#4 := by decide

/-- T11. -/
theorem test_sub_borrow :
    r16 0x8CA00041 (start [(17, 0x00000001#32), (18, 0x00000002#32)]) = some 0xFFFFFFFF#32 ∧
    czsv 0x8CA00041 (start [(17, 0x00000001#32), (18, 0x00000002#32)]) = some 0b0010#4 := by decide

/-- T14. -/
theorem test_subi_negative_immediate :
    r16 0x80008C21 (start [(17, 0x00000000#32)]) = some 0x00008000#32 ∧
    czsv 0x80008C21 (start [(17, 0x00000000#32)]) = some 0b0000#4 := by decide

/-- T13. -/
theorem test_subi_overflow :
    r16 0xFFFF8C21 (start [(17, 0x7FFFFFFF#32)]) = some 0x80000000#32 ∧
    czsv 0xFFFF8C21 (start [(17, 0x7FFFFFFF#32)]) = some 0b0011#4 := by decide

/-- T18. -/
theorem test_mul_low_bits :
    r16 0x8CA00081 (start [(17, 0x12345678#32), (18, 0x9ABCDEF0#32)]) = some 0x242D2080#32 := by decide

/-- T19. -/
theorem test_div :
    r16 0x8CA000C1 (start [(17, 0x00000064#32), (18, 0x00000007#32)]) = some 0x0000000E#32 := by decide

/-- T28. -/
theorem test_divu_no_overflow_case :
    r16 0x8CA00141 (start [(17, 0x80000000#32), (18, 0xFFFFFFFF#32)]) = some 0x00000000#32 := by decide

/-- T30. -/
theorem test_mod :
    r16 0x8CA00101 (start [(17, 0x00000064#32), (18, 0x00000007#32)]) = some 0x00000002#32 := by decide

/-- T36. -/
theorem test_modu :
    r16 0x8CA00181 (start [(17, 0xFFFFFFFE#32), (18, 0xFFFFFFFF#32)]) = some 0xFFFFFFFE#32 := by decide

/-- T22: an exact quotient, the same under both values of `div_signed_neg`. -/
theorem test_div_negative_exact : divSignedNeg 0xFFFFFFF8#32 2#32 = 0xFFFFFFFC#32 := by
  unfold divSignedNeg
  cases Config.divRounding <;> decide

/-- T24: division by 0 writes a draw and the run goes on. -/
theorem test_div_by_zero_completes :
    (after 0x8CA000C1 (start [(17, 5#32)])).map (fun t => (t.pc, t.sr.flags)) =
      some (0x10000004#32, State.reset.sr.flags) := by decide

/-- T40. -/
theorem test_and :
    r16 0x8CA04001 (start [(17, 0xF0F0AAAA#32), (18, 0x0FF0CCCC#32)]) = some 0x00F08888#32 := by decide

/-- T41. -/
theorem test_or :
    r16 0x8CA04041 (start [(17, 0xF0F0AAAA#32), (18, 0x0FF0CCCC#32)]) = some 0xFFF0EEEE#32 := by decide

/-- T42. -/
theorem test_xor :
    r16 0x8CA04081 (start [(17, 0xF0F0AAAA#32), (18, 0x0FF0CCCC#32)]) = some 0xFF006666#32 := by decide

/-- T43. -/
theorem test_nand :
    r16 0x8CA040C1 (start [(17, 0xF0F0AAAA#32), (18, 0x0FF0CCCC#32)]) = some 0xFF0F7777#32 := by decide

/-- T44. -/
theorem test_nor :
    r16 0x8CA04101 (start [(17, 0xF0F0AAAA#32), (18, 0x0FF0CCCC#32)]) = some 0x000F1111#32 := by decide

/-- T48. -/
theorem test_andi_zero_extends :
    r16 0xFFFF8C22 (start [(17, 0x12345678#32)]) = some 0x00005678#32 := by decide

/-- T46. -/
theorem test_ori_zero_extends :
    r16 0x80018C23 (start [(17, 0xFFFF0000#32)]) = some 0xFFFF8001#32 := by decide

/-- 41_logical.md R136, example. -/
theorem test_xori :
    r16 0xFFFF8C24 (start [(17, 0x12345678#32)]) = some 0x1234A987#32 := by decide

/-- T52: count 32 is count 0. -/
theorem test_lls_count_32 :
    r16 0x8CA08001 (start [(17, 0x00000001#32), (18, 0x00000020#32)]) = some 0x00000001#32 := by decide

/-- T55: count 33 is count 1. -/
theorem test_lrs_count_33 :
    r16 0x8CA08041 (start [(17, 0x80000000#32), (18, 0x00000021#32)]) = some 0x40000000#32 := by decide

/-- T56. -/
theorem test_ars_count_31 :
    r16 0x8CA08081 (start [(17, 0x80000000#32), (18, 0x0000001F#32)]) = some 0xFFFFFFFF#32 := by decide

/-- T62. -/
theorem test_llsi_high_bits_ignored :
    r16 0xFFE18C25 (start [(17, 0x00000001#32)]) = some 0x00000002#32 := by decide

/-- T60. -/
theorem test_lrsi :
    r16 0x00108C26 (start [(17, 0xFFFF0000#32)]) = some 0x0000FFFF#32 := by decide

/-- T61. -/
theorem test_arsi :
    r16 0x00048C27 (start [(17, 0x80000010#32)]) = some 0xF8000001#32 := by decide

/-- T63. -/
theorem test_lsoi :
    r16 0x56788C28 (start [(17, 0xABCD1234#32)]) = some 0x12345678#32 := by decide

/-- T72. -/
theorem test_elt :
    r16 0x8CA0C001 (start [(17, 0x80000000#32), (18, 0x7FFFFFFF#32)]) = some 1#32 := by decide

/-- T73. -/
theorem test_eltu :
    r16 0x8CA0C041 (start [(17, 0x80000000#32), (18, 0x7FFFFFFF#32)]) = some 0#32 := by decide

/-- T75. -/
theorem test_eeq :
    r16 0x8CA0C081 (start [(17, 0x00000005#32), (18, 0x00000005#32)]) = some 1#32 := by decide

/-- T77. -/
theorem test_eneq :
    r16 0x8CA0C0C1 (start [(17, 0x00000005#32), (18, 0x00000006#32)]) = some 1#32 := by decide

/-- T79. -/
theorem test_exbw :
    r16 0x84400080 (start [(17, 0x12345680#32)]) = some 0xFFFFFF80#32 := by decide

/-- T81. -/
theorem test_exhw :
    r16 0x84400880 (start [(17, 0x12348000#32)]) = some 0xFFFF8000#32 := by decide

/-- T90. -/
theorem test_lb_sign_extends : r16 0x00048C02 (withData (start [(17, 0x1000#32)])) = some 0xFFFFFF80#32 := by decide

/-- T93. -/
theorem test_lh_rounds_down : r16 0x00038C03 (withData (start [(17, 0x1000#32)])) = some 0x00003344#32 := by decide

/-- T95. -/
theorem test_lw_rounds_down : r16 0x00078C04 (withData (start [(17, 0x1000#32)])) = some 0x8090A0B0#32 := by decide

/-- T97. -/
theorem test_lw_negative_offset : r16 0xFFFC0404 (withData (start [])) = some 0xDEADBEEF#32 := by decide

/-- T101. -/
theorem test_sb : bytes8 0x00058C05 (withData (start [(16, 0x1000#32), (17, 0x123456EF#32)])) =
    some [0x11#8, 0x22#8, 0x33#8, 0x44#8, 0x80#8, 0xEF#8, 0xA0#8, 0xB0#8] := by decide

/-- T102. -/
theorem test_sh_rounds_down : bytes8 0x00058C06 (withData (start [(16, 0x1000#32), (17, 0x1234BEEF#32)])) =
    some [0x11#8, 0x22#8, 0x33#8, 0x44#8, 0xBE#8, 0xEF#8, 0xA0#8, 0xB0#8] := by decide

/-- T103. -/
theorem test_sw_rounds_down : bytes8 0x00068C07 (withData (start [(16, 0x1000#32), (17, 0xAABBCCDD#32)])) =
    some [0x11#8, 0x22#8, 0x33#8, 0x44#8, 0xAA#8, 0xBB#8, 0xCC#8, 0xDD#8] := by decide

/-- T105. -/
theorem test_sw_base_is_data : bytes8 0x00008407 (withData (start [(16, 0x1000#32)])) =
    some [0x00#8, 0x00#8, 0x10#8, 0x00#8, 0x80#8, 0x90#8, 0xA0#8, 0xB0#8] := by decide

/-- T100. -/
theorem test_lw_not_backed :
    step ((withData (start [(17, 0x2000#32)])).withFetchWord 32 0x00008C04) = .fault .dataNotBacked := rfl

/-- T99: a load to GPR0 opens no delayed-load slot. -/
theorem test_lw_to_zero_register :
    (after 0x00008804 (withData (start [(17, 0x1000#32)]))).map (fun t => (t.reg 0, t.trk.loadShadow)) =
      some (0#32, none) := by decide

/-- T116. -/
theorem test_brz_taken : (after 0x80008009 (start [])).map (fun t => t.pc) = some 0x0FFF8004#32 := by decide

/-- T111. -/
theorem test_brz_not_taken : (after 0x00088009 (start [(16, 0x80000000#32)])).map (fun t => t.pc) = some 0x10000004#32 := by decide

/-- T112. -/
theorem test_brnz_taken : (after 0xFFF4800A ({ start [(16, 5#32)] with pc := 0x10000010#32 })).map (fun t => t.pc) = some 0x10000008#32 := by decide

/-- T113. -/
theorem test_brnz_not_taken : (after 0xFFF4800A ({ start [] with pc := 0x10000010#32 })).map (fun t => t.pc) = some 0x10000014#32 := by decide

/-- T120. -/
theorem test_jp_backward : (after 0x8000000B (start [])).map (fun t => t.pc) = some 0x0E000004#32 := by decide

/-- T125. -/
theorem test_jp_wraps : (after 0x0000020B ({ start [] with pc := 0xFFFFFFFC#32 })).map (fun t => t.pc) = some 0x00000008#32 := by decide

/-- T121. -/
theorem test_jpl :
    (after 0x0000400C (start [(3, 0xAAAAAAAA#32)])).map (fun t => (t.pc, t.reg 3)) =
      some (0x10000104#32, 0x10000004#32) := by decide

/-- T122. -/
theorem test_jpr :
    (after 0x000000CE (start [(3, 0x10000200#32)])).map (fun t => (t.pc, t.reg 3)) =
      some (0x10000200#32, 0x10000200#32) := by decide

/-- T124: the target is the old GPR3. -/
theorem test_jprl_of_link_register :
    (after 0x000000CF (start [(3, 0x20000000#32)])).map (fun t => (t.pc, t.reg 3)) =
      some (0x20000000#32, 0x10000004#32) := by decide

/-- T130. -/
theorem test_nop :
    (after 0x00000000 (withStatus true true 1 true false true false (start []))).map
      (fun t => (t.pc, t.reg 1, t.trk.nopRun)) = some (0x10000004#32, 0x0000430A#32, 1) := by decide

/-- T137. -/
theorem test_reti :
    (after 0x00000040 (withStatus false false 0 false false true false (start [(2, 0x10000008#32)]))).map
      (fun t => (t.pc, t.reg 1, t.reg 2)) = some (0x10000008#32, 0x00004302#32, 0x10000008#32) := by decide

/-- T131. -/
theorem test_trap_taken :
    (after 0x0000040D (withStatus true true 1 true false true false (start [(2, 0x55#32)]))).map
      (fun t => (t.pc, t.reg 1, t.reg 2)) = some (0x0FFE0810#32, 0x0000000A#32, 0x10000000#32) := by decide

/-- T132. -/
theorem test_trap_ignored :
    (after 0x0000040D (withStatus true false 0 false true false false (start [(2, 0x55#32)]))).map
      (fun t => (t.pc, t.reg 1, t.reg 2)) = some (0x10000004#32, 0x00000104#32, 0x55#32) := by decide

/-- T135. -/
theorem test_trap_offset_refused :
    step ((withStatus false true 0 false false false false (start [])).withFetchWord 32 0x8000000D) =
      .refused .trapOffsetExtension := rfl

/-- T160 and T163, T164: the external interrupt entry, and reset, which wins. -/
theorem test_external_entry_and_reset :
    (after 0 { withStatus true true 1 false true false false (start [(2, 0x55#32)]) with
        pins := [{ reset := false, extint := true }], extWait := some 0 }).map
      (fun t => (t.pc, t.reg 2, t.reg 1, t.extcatch)) =
        some (0x0FFE0400#32, 0x10000000#32, 0x00000004#32, true) ∧
    (after 0 { withStatus true true 1 false true false false (start [(2, 0x55#32)]) with
        pins := [{ reset := true, extint := true }], extWait := some 0 }).map
      (fun t => (t.pc, t.reg 2, t.reg 1, t.extcatch)) =
        some (0x0FFE0000#32, 0#32, 0#32, false) := by decide

/-- T141. -/
theorem test_status_write_kernel :
    (after 0x430F0063 (afterNops (withStatus false false 0 false true false false (start [])))).map
      (fun t => t.reg 1) = some 0x00004304#32 := by decide

/-- T148: in user mode the register write is dropped, the flags of ADDI are written. -/
theorem test_status_write_user :
    (after 0x00000060 (afterNops (withStatus true true 1 false false false false (start [])))).map
      (fun t => t.reg 1) = some 0x00004304#32 := by decide

/-- T143, T144, T145. -/
theorem test_status_write_refused :
    step ((start []).withFetchWord 32 0x03000063) = .refused .statusWithoutTwoNops ∧
    step ((afterNops (start [])).withFetchWord 32 0x80000063) = .refused .statusUndefinedMode ∧
    step ((afterNops (start [])).withFetchWord 32 0x00100063) = .refused .statusUndefinedBits := ⟨rfl, rfl, rfl⟩

/-- T149. -/
theorem test_status_stored :
    bytes8 0x00000C07 (afterNops (withStatus true true 1 false false true false
      (withData (start [(16, 0x1000#32)])))) =
        some [0x00#8, 0x00#8, 0x43#8, 0x02#8, 0x80#8, 0x90#8, 0xA0#8, 0xB0#8] := by decide

/-- T150. -/
theorem test_add_to_zero_register :
    (after 0x8C800001 (start [(17, 0xFFFFFFFF#32), (18, 1#32)])).map (fun t => (t.reg 0, flagBits t.sr.flags)) =
      some (0#32, 0b1100#4) := by decide

/-! ### Witnesses: operands and a state that meet the hypotheses of each statement

The row of a statement's list is chosen by its instruction; the witness states that row's own condition. -/

/-- A NOP stands at pc and at the three addresses after it, and `pins` are to come. -/
def nopsWith (pins : List Pins) (wait : Option Nat) (t : State) : State :=
  let u := t.withFetchWord 32 0
  { u with
    imem := u.imem.load (t.pc.toNat + 4) (List.replicate 12 0#8)
    pins := pins
    extWait := wait }

/-- A standing external request. -/
abbrev extPin : Pins := { reset := false, extint := true }

/-- The instruction just before wrote GPR1, EIE being `old` before it; `direct`: the hardware changed the fields since. -/
def inWindow (old direct : Bool) (t : State) : State :=
  { t with trk := { t.trk with
      sinceSrWrite := .zero, srOld := { eie := old, iie := old, mode := 0b00#2 }, srDirect := direct } }

/-- GPR17 = a, GPR18 = b. -/
abbrev operands (a b : Word) : State := start [(17, a), (18, b)]

theorem witness_DecodeOfEncode : Instr.wellFormed (.add 31 31 31) = true := rfl

theorem witness_EncodeOfDecode : decode 0x8CA00001#32 = .ok (.add 16 17 18) := by decide

theorem witness_DecodeFollowsOpcodeRows :
    (0x0001FFFF#32, 0x00000001#32) ∈ opcodeRows ∧ 0x8CA00001#32 &&& 0x0001FFFF#32 = 0x00000001#32 := by decide

theorem witness_RefusedWords :
    (fetch ((start []).withFetchWord 32 0x00000800) = .word 0x00000800#32 ∧
      decode 0x00000800#32 = .error .reservedField) ∧
    (fetch ((start []).withFetchWord 32 0x000000C0) = .word 0x000000C0#32 ∧
      decode 0x000000C0#32 = .error .unallocated) := by decide

theorem witness_RegisterWriteFunction :
    (2#5 ≠ zeroReg ∧ 2#5 ≠ statusReg) ∧ (31#5 ≠ zeroReg ∧ 31#5 ≠ statusReg) := by decide

theorem witness_StatusWriteFilter_user : (withStatus true true 1 false false false false (start [])).sr.mode ≠ 0b00#2 := by
  decide

theorem witness_StatusWriteFilter_undefinedBits :
    (start []).sr.mode = 0b00#2 ∧
    (∃ k < 32, (4 ≤ k ∧ k ≤ 7 ∨ 10 ≤ k ∧ k ≤ 13 ∨ 16 ≤ k) ∧ (0x00000010#32).getLsbD k = true) ∧
    ∃ k < 32, (4 ≤ k ∧ k ≤ 7 ∨ 10 ≤ k ∧ k ≤ 13 ∨ 16 ≤ k) ∧ (0x80000000#32).getLsbD k = true := by decide

theorem witness_StatusWriteFilter_mode :
    (start []).sr.mode = 0b00#2 ∧
    (∀ k < 32, (4 ≤ k ∧ k ≤ 7 ∨ 10 ≤ k ∧ k ≤ 13 ∨ 16 ≤ k) → (0x0000C30F#32).getLsbD k = false) ∧
    (0x0000C30F#32).getLsbD 15 = true := by decide

theorem witness_StatusWriteFilter_written :
    (start []).sr.mode = 0b00#2 ∧
    (∀ k < 32, (4 ≤ k ∧ k ≤ 7 ∨ 10 ≤ k ∧ k ≤ 13 ∨ 16 ≤ k) → (0x0000430F#32).getLsbD k = false) ∧
    (0x0000430F#32).getLsbD 15 = false := by decide

theorem witness_StatusFieldMap : 0 < 32 ∧ 31 < 32 := by decide

/-- The state right after a load of GPR16. -/
def afterLoad : State := { start [] with trk := { (start []).trk with loadShadow := some 16 } }

theorem witness_RegisterReadFunction :
    (16#5 ≠ zeroReg ∧ afterLoad.trk.loadShadow = some 16#5) ∧
    (17#5 ≠ statusReg ∧ afterLoad.trk.loadShadow ≠ some 17#5) ∧
    (afterLoad.trk.loadShadow ≠ some statusReg ∧ afterLoad.trk.sinceSrWrite = .far ∧
      afterLoad.trk.sinceFlagWrite = .far) := by decide

theorem witness_TwoNopRule :
    (statusReg ∈ (Instr.ori 1 0 0x0300).named ∧ (start []).trk.nopRun ≠ 2) ∧
    ¬(statusReg ∈ (Instr.ori 1 0 0x0300).named ∧ (afterNops (start [])).trk.nopRun ≠ 2) := by decide

theorem witness_StatusDestinationOutcomes :
    (Instr.ori 1 0 0x0300).destOperand = some statusReg ∧ (afterNops (start [])).trk.nopRun = 2 ∧
    (afterNops (start [])).sr.mode = 0b00#2 ∧
    (afterNops (withStatus true true 1 false false false false (start []))).trk.nopRun = 2 ∧
    (afterNops (withStatus true true 1 false false false false (start []))).sr.mode ≠ 0b00#2 := by decide

theorem witness_TrackersAfterInstruction :
    (∃ t, exec .nop (start []) = .next t) ∧ ∃ t, exec (.ori 1 0 0x0300) (afterNops (start [])) = .next t :=
  ⟨⟨_, rfl⟩, ⟨_, rfl⟩⟩

theorem witness_NoWindowAfterTwoNops : HazardInv (afterNops (start [])).trk ∧ (afterNops (start [])).trk.nopRun = 2 :=
  ⟨⟨by decide, by decide, by decide⟩, by decide⟩

/-- T3, the row of ADD. -/
theorem witness_AdditionResult_add :
    let s := operands 0x80000000#32 0x80000000#32
    let a := 0x80000000#32; let b := 0x80000000#32; let r := 0#32
    let f : AluFlags := { c := true, z := true, s := false, v := true }
    a = readReg s .first 17 ∧ b = readReg s .second 18 ∧ r.toNat = (a.toNat + b.toNat) % 2 ^ 32 ∧
    (f.c = true ↔ 2 ^ 32 ≤ a.toNat + b.toNat) ∧ (f.z = true ↔ r.toNat = 0) ∧ (f.s = true ↔ r.toInt < 0) ∧
    (f.v = true ↔ a.toInt + b.toInt < -2 ^ 31 ∨ 2 ^ 31 ≤ a.toInt + b.toInt) ∧
    NamesOk s [16, 17, 18] ∧ DestOk s 16 r := by decide

/-- T147, the row of ADDI with destination GPR1. -/
theorem witness_AdditionResult_addi_status :
    let s := afterNops (start [])
    let a := 0#32; let b := 0x100#32; let r := 0x100#32
    let f : AluFlags := { c := false, z := false, s := false, v := false }
    a = readReg s .first 0 ∧ b = BitVec.ofInt 32 (0x0100#16).toInt ∧ r.toNat = (a.toNat + b.toNat) % 2 ^ 32 ∧
    (f.c = true ↔ 2 ^ 32 ≤ a.toNat + b.toNat) ∧ (f.z = true ↔ r.toNat = 0) ∧ (f.s = true ↔ r.toInt < 0) ∧
    (f.v = true ↔ a.toInt + b.toInt < -2 ^ 31 ∨ 2 ^ 31 ≤ a.toInt + b.toInt) ∧
    NamesOk s [1, 0] ∧ DestOk s 1 r := by decide

/-- T10, the row of SUB. -/
theorem witness_SubtractionResult_sub :
    let s := operands 0x80000000#32 1#32
    let a := 0x80000000#32; let b := 1#32; let r := 0x7FFFFFFF#32
    let f : AluFlags := { c := true, z := false, s := false, v := true }
    a = readReg s .first 17 ∧ b = readReg s .second 18 ∧ (r.toNat : Int) = ((a.toNat : Int) - b.toNat) % 2 ^ 32 ∧
    (f.c = true ↔ b.toNat ≤ a.toNat) ∧ (f.z = true ↔ r.toNat = 0) ∧ (f.s = true ↔ r.toInt < 0) ∧
    (f.v = true ↔ a.toInt - b.toInt < -2 ^ 31 ∨ 2 ^ 31 ≤ a.toInt - b.toInt) ∧
    NamesOk s [16, 17, 18] ∧ DestOk s 16 r := by decide

/-- T14, the row of SUBI. -/
theorem witness_SubtractionResult_subi :
    let s := operands 0#32 0#32
    let a := 0#32; let b := 0xFFFF8000#32; let r := 0x8000#32
    let f : AluFlags := { c := false, z := false, s := false, v := false }
    a = readReg s .first 17 ∧ b = BitVec.ofInt 32 (0x8000#16).toInt ∧
    (r.toNat : Int) = ((a.toNat : Int) - b.toNat) % 2 ^ 32 ∧
    (f.c = true ↔ b.toNat ≤ a.toNat) ∧ (f.z = true ↔ r.toNat = 0) ∧ (f.s = true ↔ r.toInt < 0) ∧
    (f.v = true ↔ a.toInt - b.toInt < -2 ^ 31 ∨ 2 ^ 31 ≤ a.toInt - b.toInt) ∧
    NamesOk s [16, 17] ∧ DestOk s 16 r := by decide

/-- T18. -/
theorem witness_MultiplicationResult :
    let s := operands 0x12345678#32 0x9ABCDEF0#32
    0x242D2080#32 = BitVec.ofInt 32 ((readReg s .first 17).toInt * (readReg s .second 18).toInt) ∧
    NamesOk s [16, 17, 18] ∧ DestOk s 16 0x242D2080#32 := by decide

/-- T21 and T31: both rows. -/
theorem witness_DivisionOfNonNegative :
    (let s := operands 0x7FFFFFFF#32 1#32
     let a := readReg s .first 17; let b := readReg s .second 18; let r := 0x7FFFFFFF#32
     0 ≤ a.toInt ∧ 0 < b.toInt ∧ r.toInt = a.toInt / b.toInt ∧ NamesOk s [16, 17, 18] ∧ DestOk s 16 r) ∧
    (let s := operands 7#32 7#32
     let a := readReg s .first 17; let b := readReg s .second 18; let r := 0#32
     0 ≤ a.toInt ∧ 0 < b.toInt ∧ r.toInt = a.toInt - b.toInt * (a.toInt / b.toInt) ∧ NamesOk s [16, 17, 18] ∧
       DestOk s 16 r) := by decide

/-- T23a and T23b: -7 by 2, under each rounding. -/
theorem witness_DivisionOfNegative :
    let s := operands 0xFFFFFFF9#32 2#32
    let a := readReg s .first 17; let b := readReg s .second 18
    b.toInt ≠ 0 ∧ ¬(a.toInt = -2 ^ 31 ∧ b.toInt = -1) ∧ (a.toInt < 0 ∨ b.toInt < 0) ∧
    (∃ r : Word,
      (Config.divRounding = .trunc → r.toInt = a.toInt.sign * b.toInt.sign * (a.toInt.natAbs / b.toInt.natAbs : Nat)) ∧
      (Config.divRounding = .floor → r.toInt = Int.floor ((a.toInt : ℚ) / b.toInt)) ∧ DestOk s 16 r) ∧
    NamesOk s [16, 17, 18] := by
  have ha : (readReg (operands 0xFFFFFFF9#32 2#32) .first 17).toInt = -7 := by decide
  have hb : (readReg (operands 0xFFFFFFF9#32 2#32) .second 18).toInt = 2 := by decide
  refine ⟨by decide, by decide, by decide, ?_, by decide⟩
  rw [ha, hb]
  cases Config.divRounding
  · exact ⟨0xFFFFFFFD#32, fun _ => by decide, fun h => (by cases h), by decide⟩
  · exact ⟨0xFFFFFFFC#32, fun h => (by cases h), fun _ => by norm_num; decide, by decide⟩

/-- T34. -/
theorem witness_ModuloOfNegative :
    let s := operands 0xFFFFFFF9#32 3#32
    let a := readReg s .first 17; let b := readReg s .second 18
    b.toInt ≠ 0 ∧ ¬(a.toInt = -2 ^ 31 ∧ b.toInt = -1) ∧ (a.toInt < 0 ∨ b.toInt < 0) ∧ NamesOk s [16, 17, 18] ∧
    DestOk s 16 (modSignedNeg a b) :=
  ⟨by decide, by decide, by decide, by decide, fun h => absurd h (by decide)⟩

/-- T24, T25, T29, T32, T33, T37: the divisor 0 and the overflow pair. -/
theorem witness_ContingentDivision :
    (let s := operands 5#32 0#32
     (readReg s .second 18).toInt = 0 ∧ NamesOk s [16, 17, 18] ∧ DestOk s 16 (Config.divContingent s.tick)) ∧
    (let s := operands 0x80000000#32 0xFFFFFFFF#32
     (readReg s .first 17).toInt = -2 ^ 31 ∧ (readReg s .second 18).toInt = -1 ∧ NamesOk s [16, 17, 18] ∧
       DestOk s 16 (Config.divContingent s.tick)) :=
  ⟨⟨by decide, by decide, fun h => absurd h (by decide)⟩,
    ⟨by decide, by decide, by decide, fun h => absurd h (by decide)⟩⟩

/-- T28 and T36: both rows. -/
theorem witness_UnsignedDivision :
    (let s := operands 0x80000000#32 0xFFFFFFFF#32
     let a := readReg s .first 17; let b := readReg s .second 18; let r := 0#32
     b.toNat ≠ 0 ∧ r.toNat = a.toNat / b.toNat ∧ NamesOk s [16, 17, 18] ∧ DestOk s 16 r) ∧
    (let s := operands 0xFFFFFFFE#32 0xFFFFFFFF#32
     let a := readReg s .first 17; let b := readReg s .second 18; let r := 0xFFFFFFFE#32
     b.toNat ≠ 0 ∧ r.toNat = a.toNat - b.toNat * (a.toNat / b.toNat) ∧ NamesOk s [16, 17, 18] ∧ DestOk s 16 r) := by
  decide

/-- Each clause: 100 by 7 for the unsigned ones, -8 by 2 for the exact signed one. -/
theorem witness_DivisionLaws :
    (let s := operands 100#32 7#32
     let a := readReg s .first 17; let b := readReg s .second 18
     b.toNat ≠ 0 ∧ (16#5 ≠ zeroReg ∧ 16#5 ≠ statusReg) ∧ 0 ≤ a.toInt ∧ 0 < b.toInt ∧
       (∃ t, exec (.divu 16 17 18) s = .next t) ∧ (∃ t, exec (.modu 16 17 18) s = .next t) ∧
       (∃ t, exec (.div 16 17 18) s = .next t) ∧ ∃ t, exec (.mod 16 17 18) s = .next t) ∧
    (let s := operands 0xFFFFFFF8#32 2#32
     let a := readReg s .first 17; let b := readReg s .second 18
     b.toNat ≠ 0 ∧ a.toInt % b.toInt = 0 ∧ ¬(a.toInt = -2 ^ 31 ∧ b.toInt = -1) ∧
       ∃ t, exec (.div 16 17 18) s = .next t) :=
  ⟨⟨by decide, by decide, by decide, by decide, ⟨_, rfl⟩, ⟨_, rfl⟩, ⟨_, rfl⟩, ⟨_, rfl⟩⟩,
    ⟨by decide, by decide, by decide, ⟨_, rfl⟩⟩⟩

/-- T40 to T44: the five rows. -/
theorem witness_LogicalRegisterForms :
    let s := operands 0xF0F0AAAA#32 0x0FF0CCCC#32
    let a := readReg s .first 17; let b := readReg s .second 18
    (∀ k < 32, (0x00F08888#32).getLsbD k = (a.getLsbD k && b.getLsbD k)) ∧
    (∀ k < 32, (0xFFF0EEEE#32).getLsbD k = (a.getLsbD k || b.getLsbD k)) ∧
    (∀ k < 32, (0xFF006666#32).getLsbD k = (a.getLsbD k != b.getLsbD k)) ∧
    (∀ k < 32, (0xFF0F7777#32).getLsbD k = !(a.getLsbD k && b.getLsbD k)) ∧
    (∀ k < 32, (0x000F1111#32).getLsbD k = !(a.getLsbD k || b.getLsbD k)) ∧
    NamesOk s [16, 17, 18] ∧ ∀ r, DestOk s 16 r :=
  ⟨by decide, by decide, by decide, by decide, by decide, by decide, fun _ h => absurd h (by decide)⟩

/-- The three rows, on the examples of R132, R134 and R136. -/
theorem witness_LogicalImmediateForms :
    let s := operands 0x12345678#32 0#32
    let a := readReg s .first 17
    (∀ k < 32, (0x00005600#32).getLsbD k = (a.getLsbD k && (decide (k < 16) && (0xFF00#16).getLsbD k))) ∧
    (∀ k < 32, (0x1234FF78#32).getLsbD k = (a.getLsbD k || (decide (k < 16) && (0xFF00#16).getLsbD k))) ∧
    (∀ k < 32, (0x1234A987#32).getLsbD k = (a.getLsbD k != (decide (k < 16) && (0xFFFF#16).getLsbD k))) ∧
    NamesOk s [16, 17] ∧ ∀ r, DestOk s 16 r :=
  ⟨by decide, by decide, by decide, by decide, fun _ h => absurd h (by decide)⟩

/-- The three rows, by 31 and by 63. -/
theorem witness_ShiftRegisterForms :
    (let s := operands 1#32 0xFFFFFFFF#32
     (readReg s .second 18).toNat % 32 = 31 ∧
       (0x80000000#32).toNat = (readReg s .first 17).toNat * 2 ^ 31 % 2 ^ 32 ∧
       NamesOk s [16, 17, 18] ∧ DestOk s 16 0x80000000#32) ∧
    (let s := operands 0x80000000#32 31#32
     (readReg s .second 18).toNat % 32 = 31 ∧ (1#32).toNat = (readReg s .first 17).toNat / 2 ^ 31 ∧
       (0xFFFFFFFF#32).toInt = (readReg s .first 17).toInt / 2 ^ 31 ∧ NamesOk s [16, 17, 18] ∧
       DestOk s 16 1#32 ∧ DestOk s 16 0xFFFFFFFF#32) := by decide

/-- The three rows, by 0xFFE1, which is 1, and by 31. -/
theorem witness_ShiftImmediateForms :
    (let s := operands 1#32 0#32
     (0xFFE1#16).toNat % 32 = 1 ∧ (2#32).toNat = (readReg s .first 17).toNat * 2 ^ 1 % 2 ^ 32 ∧ NamesOk s [16, 17] ∧
       DestOk s 16 2#32) ∧
    (let s := operands 0x80000000#32 0#32
     (31#16).toNat % 32 = 31 ∧ (1#32).toNat = (readReg s .first 17).toNat / 2 ^ 31 ∧
       (0xFFFFFFFF#32).toInt = (readReg s .first 17).toInt / 2 ^ 31 ∧ NamesOk s [16, 17] ∧
       DestOk s 16 1#32 ∧ DestOk s 16 0xFFFFFFFF#32) := by decide

/-- T63. -/
theorem witness_ShiftOrImmediate :
    let s := operands 0xABCD1234#32 0#32
    (0x12345678#32).toNat = (readReg s .first 17).toNat % 2 ^ 16 * 2 ^ 16 + (0x5678#16).toNat ∧
    NamesOk s [16, 17] ∧ DestOk s 16 0x12345678#32 := by decide

/-- T72, T73, T75, T78: each row, with the condition true or false. -/
theorem witness_CompareForms :
    (let s := operands 0x80000000#32 0x7FFFFFFF#32
     let a := readReg s .first 17; let b := readReg s .second 18
     (a.toInt < b.toInt ∧ 1#32 = 1#32) ∧ (¬ a.toNat < b.toNat ∧ 0#32 = 0#32) ∧ NamesOk s [16, 17, 18] ∧
       DestOk s 16 0#32 ∧ DestOk s 16 1#32) ∧
    (let s := operands 5#32 5#32
     let a := readReg s .first 17; let b := readReg s .second 18
     (a = b ∧ 1#32 = 1#32) ∧ (¬ a ≠ b ∧ 0#32 = 0#32) ∧ NamesOk s [16, 17, 18]) := by decide

/-- T79. -/
theorem witness_ExtendByte :
    let s := operands 0x12345680#32 0#32
    (0xFFFFFF80#32).toInt = ((readReg s .first 17).toNat : Int).bmod (2 ^ 8) ∧ NamesOk s [16, 17] ∧
    DestOk s 16 0xFFFFFF80#32 := by decide

/-- T81. -/
theorem witness_ExtendHalfword :
    let s := operands 0x12348000#32 0#32
    (0xFFFF8000#32).toInt = ((readReg s .first 17).toNat : Int).bmod (2 ^ 16) ∧ NamesOk s [16, 17] ∧
    DestOk s 16 0xFFFF8000#32 := by decide

/-- T90: LB at the last byte that the offset reaches with a sign. -/
theorem witness_LoadResult_lb :
    let s := withData (start [(17, 0x1000#32)])
    let ea := 0x1004#32; let r := 0xFFFFFF80#32
    (ea.toNat : Int) = ((readReg s .first 17).toNat + (4#16).toInt) % 2 ^ 32 ∧
    (∃ b0, dataByte s ea.toNat = some b0 ∧ r.toInt = b0.toInt) ∧ NamesOk s [16, 17] ∧ DestOk s 16 r :=
  ⟨by decide, ⟨0x80#8, by decide, by decide⟩, by decide, by decide⟩

/-- T93: LH at an odd effective address. -/
theorem witness_LoadResult_lh :
    let s := withData (start [(17, 0x1000#32)])
    let ea := 0x1003#32; let ad := 0x1002#32; let r := 0x3344#32
    (ea.toNat : Int) = ((readReg s .first 17).toNat + (3#16).toInt) % 2 ^ 32 ∧ ad.toNat = ea.toNat / 2 * 2 ∧
    (∃ b0 b1, dataByte s ad.toNat = some b0 ∧ dataByte s (ad.toNat + 1) = some b1 ∧
      r.toInt = b0.toInt * 2 ^ 8 + b1.toNat) ∧ NamesOk s [16, 17] ∧ DestOk s 16 r :=
  ⟨by decide, by decide, ⟨0x33#8, 0x44#8, by decide, by decide, by decide⟩, by decide, by decide⟩

/-- T97: LW at the last word of the space. -/
theorem witness_LoadResult_lw :
    let s := withData (start [])
    let ea := 0xFFFFFFFC#32; let ad := 0xFFFFFFFC#32; let r := 0xDEADBEEF#32
    (ea.toNat : Int) = ((readReg s .first 0).toNat + (0xFFFC#16).toInt) % 2 ^ 32 ∧ ad.toNat = ea.toNat / 4 * 4 ∧
    (∃ b0 b1 b2 b3, dataByte s ad.toNat = some b0 ∧ dataByte s (ad.toNat + 1) = some b1 ∧
      dataByte s (ad.toNat + 2) = some b2 ∧ dataByte s (ad.toNat + 3) = some b3 ∧
      r.toNat = b0.toNat * 2 ^ 24 + b1.toNat * 2 ^ 16 + b2.toNat * 2 ^ 8 + b3.toNat) ∧
    NamesOk s [16, 0] ∧ DestOk s 16 r :=
  ⟨by decide, by decide, ⟨0xDE#8, 0xAD#8, 0xBE#8, 0xEF#8, by decide, by decide, by decide, by decide, by decide⟩,
    by decide, by decide⟩

/-- LW of a word whose first two bytes are a device's: the value is put together from the free bytes. -/
theorem witness_LoadResult_device :
    let s := { start [(17, 0x1002#32)] with
      map := [{ base := 0x1000, size := 2, kind := .device }, { base := 0x1002, size := 2, kind := .ram }] }
    let ea := 0x1002#32; let ad := 0x1000#32
    (ea.toNat : Int) = ((readReg s .first 17).toNat + (0#16).toInt) % 2 ^ 32 ∧ ad.toNat = ea.toNat / 4 * 4 ∧
    regionAt s.map ad.toNat = some .device ∧
    (∃ r : Word, (∃ b0 b1 b2 b3, dataByte s ad.toNat = some b0 ∧ dataByte s (ad.toNat + 1) = some b1 ∧
      dataByte s (ad.toNat + 2) = some b2 ∧ dataByte s (ad.toNat + 3) = some b3 ∧
      r.toNat = b0.toNat * 2 ^ 24 + b1.toNat * 2 ^ 16 + b2.toNat * 2 ^ 8 + b3.toNat) ∧ DestOk s 16 r) ∧
    NamesOk s [16, 17] :=
  ⟨by decide, by decide, by decide,
    ⟨_, ⟨_, _, _, _, rfl, rfl, rfl, rfl, wordOfBytes_toNat _ _ _ _⟩, fun h => absurd h (by decide)⟩, by decide⟩

/-- T101 to T103, and a word at the end of the space: every byte is RAM. -/
theorem witness_StoreResult :
    let s := withData (start [(16, 0x1000#32), (17, 0x123456EF#32)])
    NamesOk s [16, 17] ∧
    (∀ k < 1, regionAt s.map ((storeAddress s 16 5#16).toNat + k) = some .ram) ∧
    (∀ k < 2, regionAt s.map ((align2 (storeAddress s 16 5#16)).toNat + k) = some .ram) ∧
    (∀ k < 4, regionAt s.map ((align4 (storeAddress s 16 6#16)).toNat + k) = some .ram) ∧
    ∀ k < 4, regionAt s.map ((align4 (storeAddress s 0 0xFFFF#16)).toNat + k) = some .ram := by decide

/-- A word half in a device and half in RAM. -/
theorem witness_StoreToDevice :
    let s := { start [(16, 0x1002#32)] with
      map := [{ base := 0x1002, size := 2, kind := .device }, { base := 0x1000, size := 2, kind := .ram }] }
    NamesOk s [16, 17] ∧
    (∀ k < 1, regionAt s.map ((storeAddress s 16 0#16).toNat + k) ≠ none) ∧
    (∀ k < 2, regionAt s.map ((align2 (storeAddress s 16 1#16)).toNat + k) ≠ none) ∧
    ∀ k < 4, regionAt s.map ((align4 (storeAddress s 16 0#16)).toNat + k) ≠ none := by decide

/-- The first byte after the backed range for each width; a word whose last byte alone is not backed. -/
theorem witness_UnbackedAccessStops :
    (let s := withData (start [(17, 0x1000#32)])
     NamesOk s [16, 17] ∧ (∃ k < 1, regionAt s.map ((loadAddress s 17 8#16).toNat + k) = none) ∧
       (∃ k < 2, regionAt s.map ((align2 (loadAddress s 17 8#16)).toNat + k) = none) ∧
       (∃ k < 4, regionAt s.map ((align4 (loadAddress s 17 8#16)).toNat + k) = none) ∧
       (∃ k < 1, regionAt s.map ((storeAddress s 17 8#16).toNat + k) = none) ∧
       (∃ k < 2, regionAt s.map ((align2 (storeAddress s 17 9#16)).toNat + k) = none) ∧
       ∃ k < 4, regionAt s.map ((align4 (storeAddress s 17 8#16)).toNat + k) = none) ∧
    (let s := { start [] with map := [{ base := 0, size := 3, kind := .ram }] }
     NamesOk s [16, 0] ∧ (∃ k < 4, regionAt s.map ((align4 (loadAddress s 0 0#16)).toNat + k) = none) ∧
       ¬∃ k < 3, regionAt s.map ((align4 (loadAddress s 0 0#16)).toNat + k) = none) := by decide

/-- SW, then LW, LH of the second half and LB of the last byte; SH, then LH; SB, then LB. -/
theorem witness_LoadAfterStore :
    let s := withData (start [(16, 0x1000#32), (17, 0xAABBCCDD#32)])
    (18#5 ≠ zeroReg ∧ 18#5 ≠ statusReg) ∧
    (let ad := align4 (storeAddress s 16 0#16)
     (∀ k < 4, regionAt s.map (ad.toNat + k) = some .ram) ∧
     ∃ t, exec (.sw 0 16 17) s = .next t ∧
       (align4 (loadAddress t 16 0#16) = ad ∧ ∃ u, exec (.lw 18 0 16) t = .next u) ∧
       ((align2 (loadAddress t 16 2#16)).toNat = ad.toNat + 2 * 1 ∧ ∃ u, exec (.lh 18 2 16) t = .next u) ∧
       ((loadAddress t 16 3#16).toNat = ad.toNat + 3 ∧ ∃ u, exec (.lb 18 3 16) t = .next u)) ∧
    (let ad := align2 (storeAddress s 16 7#16)
     (∀ k < 2, regionAt s.map (ad.toNat + k) = some .ram) ∧
     ∃ t, exec (.sh 7 16 17) s = .next t ∧ align2 (loadAddress t 16 6#16) = ad ∧ ∃ u, exec (.lh 18 6 16) t = .next u) ∧
    (let ad := storeAddress s 16 7#16
     regionAt s.map ad.toNat = some .ram ∧
     ∃ t, exec (.sb 7 16 17) s = .next t ∧ loadAddress t 16 7#16 = ad ∧ ∃ u, exec (.lb 18 7 16) t = .next u) :=
  ⟨by decide,
    ⟨by decide, _, rfl, ⟨by decide, ⟨_, rfl⟩⟩, ⟨by decide, ⟨_, rfl⟩⟩, ⟨by decide, ⟨_, rfl⟩⟩⟩,
    ⟨by decide, _, rfl, by decide, ⟨_, rfl⟩⟩, ⟨by decide, _, rfl, by decide, ⟨_, rfl⟩⟩⟩

/-- LW of GPR16, then an instruction that does not load GPR16. -/
theorem witness_DelayedLoadSlot :
    let s := withData (start [(17, 0x1000#32)])
    16#5 ≠ zeroReg ∧ 16#5 ≠ statusReg ∧ ∃ t, exec (.lw 16 0 17) s = .next t ∧
      (Instr.addi 16 0 7).loadDest ≠ some 16#5 ∧ ∃ u, exec (.addi 16 0 7) t = .next u :=
  ⟨by decide, by decide, _, rfl, by decide, ⟨_, rfl⟩⟩

/-- T110, T111 for BRZ, T112, T113 for BRNZ: taken and not taken. -/
theorem witness_BranchResult :
    (let s := start [(17, 0x80000000#32)]
     NamesOk s [16] ∧ NamesOk s [17] ∧
       ((readReg s .first 16).toNat = 0 ∧
         ((0x1000000C#32).toNat : Int) = (s.pc.toNat + 4 + (8#16).toInt) % 2 ^ 32) ∧
       (¬(readReg s .first 17).toNat = 0 ∧ (0x10000004#32).toNat = (s.pc.toNat + 4) % 2 ^ 32)) ∧
    (let s := { start [(16, 5#32)] with pc := 0x10000010#32 }
     NamesOk s [16] ∧ NamesOk s [17] ∧
       ((readReg s .first 16).toNat ≠ 0 ∧
         ((0x10000008#32).toNat : Int) = (s.pc.toNat + 4 + (0xFFF4#16).toInt) % 2 ^ 32) ∧
       (¬(readReg s .first 17).toNat ≠ 0 ∧ (0x10000014#32).toNat = (s.pc.toNat + 4) % 2 ^ 32)) := by decide

/-- T120, T125: the largest reach backward, and the wrap. -/
theorem witness_JumpResult :
    ((0x0E000004#32).toNat : Int) = ((start []).pc.toNat + 4 + (0x2000000#26).toInt) % 2 ^ 32 ∧
    ((8#32).toNat : Int) = ((0xFFFFFFFC#32).toNat + 4 + (8#26).toInt) % 2 ^ 32 := by decide

theorem witness_JumpRegister : NamesOk (start [(3, 0x10000200#32)]) [3] ∧ NamesOk (afterNops (start [])) [1] := by decide

theorem witness_JumpRegisterLink : NamesOk (start [(3, 0x20000000#32)]) [3] ∧ NamesOk (afterNops (start [])) [1] := by decide

/-- T131, the largest offset that is taken, and the two ways out of the window. -/
theorem witness_TrapTaken :
    (let s := withStatus true true 1 true false true false (start [])
     s.sr.iie = true ∧ OutsideStatusWindow s ∧ (0x1FFFFFF#26).toNat < 2 ^ 25) ∧
    (let s := { withStatus true true 1 true false true false (start []) with
       trk := { (start []).trk with sinceSrWrite := .zero, srDirect := true } }
     s.sr.iie = true ∧ OutsideStatusWindow s ∧ (0#26).toNat < 2 ^ 25) := by decide

/-- T132, T131, T135: the three clauses, outside the window, where the tested IIE is the register's. -/
theorem witness_TrapOutcomes :
    (withStatus true false 0 false true false false (start [])).sr.iie = false ∧
    ((withStatus true true 1 true false true false (start [])).sr.iie = true ∧ (0x1FFFFFF#26).toNat < 2 ^ 25) ∧
    2 ^ 25 ≤ (0x2000000#26).toNat := by decide

/-- T160 with IIE = 0 in user mode, and in kernel mode with IIE = 1: only EIE matters; then the window, with the old EIE
and the new EIE both 1, and a hardware change inside the window. -/
theorem witness_ExternalEntry :
    (let s := nopsWith [extPin] (some 0) (withStatus true false 1 false true false false (start []))
     s.pinsNow.reset = false ∧ RequestStands s ∧ extWaitNow s.openStep = 0) ∧
    (let s := nopsWith [extPin] (some 0) (withStatus true true 0 false true false false (start []))
     s.pinsNow.reset = false ∧ RequestStands s ∧ extWaitNow s.openStep = 0) ∧
    (let s := nopsWith [extPin] (some 0) (inWindow true false (withStatus true true 0 false true false false (start [])))
     s.pinsNow.reset = false ∧ RequestStands s ∧ extWaitNow s.openStep = 0) ∧
    (let s := nopsWith [extPin] (some 0) (inWindow false true (withStatus true true 1 false true false false (start [])))
     s.pinsNow.reset = false ∧ RequestStands s ∧ extWaitNow s.openStep = 0) :=
  ⟨by decide, by decide, ⟨by decide, ⟨by decide, by decide, fun _ => ite_self _⟩, by decide⟩, by decide⟩

/-- The conditions one by one: RESET = 1 (T164), EXTINT_IN = 0, EIE = 0 outside the window (T162), the old and the new EIE
both 0 in the window, and the acceptance condition failing there. -/
theorem witness_ExternalMasked :
    (let s := nopsWith [{ reset := true, extint := true }] none (start [])
     s.pinsNow.reset = true ∧ ∃ t, step s = .next t) ∧
    (let s := nopsWith [] none (withStatus true true 1 false true false false (start []))
     s.pinsNow.extint = false ∧ ∃ t, step s = .next t) ∧
    (let s := nopsWith [extPin] none (withStatus false true 1 false true false false (start []))
     (s.sr.eie = false ∧ OutsideStatusWindow s) ∧ ∃ t, step s = .next t) ∧
    (let s := nopsWith [extPin] none (inWindow false false (withStatus false true 0 false true false false (start [])))
     ¬OutsideStatusWindow s ∧ (s.sr.eie = false ∧ s.trk.srOld.eie = false) ∧ ¬RequestStands s ∧
       ∃ t, step s = .next t) := by
  refine ⟨⟨by decide, _, rfl⟩, ⟨by decide, _, rfl⟩, ⟨by decide, _, rfl⟩, by decide, by decide, ?_⟩
  have hn : ¬RequestStands (nopsWith [extPin] none
      (inWindow false false (withStatus false true 0 false true false false (start [])))) :=
    fun h => Bool.false_ne_true ((ite_self _).symm.trans (h.2.2 (by decide)))
  have he := Bool.eq_false_iff.mpr (mt (extRequested_iff _).mp hn)
  exact ⟨hn, _, by rw [step, if_neg (by decide), atBoundary, he]; rfl⟩

/-- A run of two states whose request waits one boundary. -/
def waitingRun (k : Nat) : State :=
  let s := nopsWith [extPin, extPin] (some 1) (withStatus true true 1 false true false false (start []))
  if k = 0 then s else { (s.openStep.track .nop).advance with extWait := some 0 }

theorem witness_ExternalLiveness :
    extWaitNow (waitingRun 0).openStep = 1 ∧
    (∀ k ≤ 1, (waitingRun k).pinsNow.reset = false ∧ RequestStands (waitingRun k)) ∧
    ∀ k < 1, step (waitingRun k) = .next (waitingRun (k + 1)) := by
  refine ⟨by decide, by decide, fun k hk => ?_⟩
  obtain rfl : k = 0 := by omega
  rfl

theorem witness_ResetStep : ({ start [] with pins := [{ reset := true, extint := true }] } : State).pinsNow.reset = true := by
  decide

/-- Without a request, and with a request that waits two boundaries more. -/
theorem witness_StepRunsTheDecodedInstruction :
    let s := nopsWith [] none (start [])
    let u := nopsWith [extPin] (some 2) (withStatus true true 1 false true false false (start []))
    RunsInstruction s none ∧ RunsInstruction u (some 1) ∧
    (∀ t ∈ [s, u], t.pc.toNat % 4 = 0 ∧ lookupCell t.imem t.pc.toNat = some 0#8 ∧
      lookupCell t.imem (t.pc.toNat + 1) = some 0#8 ∧ lookupCell t.imem (t.pc.toNat + 2) = some 0#8 ∧
      lookupCell t.imem (t.pc.toNat + 3) = some 0#8) ∧
    decodeBytes [0#8, 0#8, 0#8, 0#8] = .ok .nop ∧ Instr.nop.wellFormed = true :=
  ⟨⟨by decide, .inl ⟨by decide, rfl⟩⟩, ⟨by decide, .inr ⟨by decide, 1, by decide, rfl⟩⟩, by decide, by decide, rfl⟩

/-- The clauses of an aligned pc, and those of another pc, of which `FETCH_MISALIGN` selects one. -/
theorem witness_FetchOutcomes :
    ((start []).pc.toNat % 4 = 0 ∧ instrWordAt ((start []).withFetchWord 32 0x40).imem (start []).pc.toNat = some 0x40#32) ∧
    ((start []).pc.toNat % 4 = 0 ∧ instrWordAt (start []).imem (start []).pc.toNat = none) ∧
    (0x10000003#32).toNat % 4 ≠ 0 ∧ (Config.fetchMisalign = .refuse ∨ Config.fetchMisalign = .roundDown) ∧
    instrWordAt ((start []).withFetchWord 32 0x40).imem ((0x10000003#32).toNat / 4 * 4) = some 0x40#32 ∧
    instrWordAt (start []).imem ((0x10000003#32).toNat / 4 * 4) = none ∧
    fetch (start []) = .fault .fetchNotBacked := by
  refine ⟨by decide, by decide, by decide, ?_, by decide, by decide, by decide⟩
  cases Config.fetchMisalign <;> simp

theorem witness_PlacedWordIsFetched : (start []).pc.toNat % 4 = 0 ∧ (start []).imem.wf = true := by decide

theorem witness_RunInvariantKept : RunInv (nopsWith [] none (start [])) ∧ ∃ t, step (nopsWith [] none (start [])) = .next t :=
  ⟨⟨by decide, by decide, by decide, ⟨by decide, by decide, by decide⟩⟩, _, rfl⟩

theorem witness_ParametersAreConstant : ∃ t, step (nopsWith [extPin] none (start [])) = .next t := ⟨_, rfl⟩

/-- From user mode: to user mode, and to kernel mode by each of the three events. -/
theorem witness_UserModeCannotRaisePrivilege :
    let u := withStatus true true 1 false false false false (start [])
    u.sr.mode = 0b01#2 ∧ (∃ t, step (nopsWith [] none u) = .next t) ∧
    (∃ t, step (nopsWith [{ reset := true, extint := false }] none u) = .next t) ∧
    (∃ t, step (nopsWith [extPin] (some 0) u) = .next t) ∧ (∃ t, step (u.withFetchWord 32 0x0000040D) = .next t) ∧
    let v := withStatus false false 1 false false false false (start [])
    v.sr.mode = 0b01#2 ∧ v.sr.eie = false ∧
      ∃ t, step (v.withFetchWord 32 0x00000040) = .next t ∧ t.sr.eie = true ∧ t.sr.iie = true :=
  ⟨by decide, ⟨_, rfl⟩, ⟨_, rfl⟩, ⟨_, rfl⟩, ⟨_, rfl⟩, by decide, by decide, _, rfl, by decide, by decide⟩

theorem witness_FlagsDoNotMatter :
    statusReg ∉ (Instr.add 16 17 18).sources ∧ statusReg ∉ (Instr.sw 0 16 17).sources ∧
    statusReg ∉ (Instr.ori 1 0 0x0300).sources ∧ statusReg ∉ (Instr.addi 1 0 0).sources ∧
    statusReg ∉ Instr.reti.sources := by decide

theorem witness_InstructionFrame :
    (∃ t, exec (.add 16 17 18) (start []) = .next t) ∧ (∃ t, exec (.sw 0 16 17) (start []) = .next t) ∧
    (∃ t, exec (.jpl 8) (start []) = .next t) ∧ ∃ t, exec .reti (start []) = .next t :=
  ⟨⟨_, rfl⟩, ⟨_, rfl⟩, ⟨_, rfl⟩, ⟨_, rfl⟩⟩

end Sys2Proof.Tests
end

section
/-!
The logical instructions (41_logical.md R131 to R138): a word is fixed by its 32 bits, so a result given bit by bit is the
value the model computes with its word operation; the rest is the one effect of an instruction with a destination.
-/

namespace Sys2Proof.Machine

/-! ### Word operations that work bit by bit -/

/-- The word operation `f` works on each bit of its two operands by `op`. -/
def Bitwise (op : Bool → Bool → Bool) (f : Word → Word → Word) : Prop :=
  ∀ a b : Word, ∀ k < 32, (f a b).getLsbD k = op (a.getLsbD k) (b.getLsbD k)

theorem bitwise_and : Bitwise (fun x y => x && y) (fun a b => a &&& b) :=
  fun _ _ _ _ => BitVec.getLsbD_and

theorem bitwise_or : Bitwise (fun x y => x || y) (fun a b => a ||| b) :=
  fun _ _ _ _ => BitVec.getLsbD_or

theorem bitwise_xor : Bitwise (fun x y => x != y) (fun a b => a ^^^ b) :=
  fun _ _ _ _ => BitVec.getLsbD_xor

/-- The complement of a bitwise operation is bitwise. -/
theorem Bitwise.complement {op : Bool → Bool → Bool} {f : Word → Word → Word} (hf : Bitwise op f) :
    Bitwise (fun x y => !op x y) (fun a b => ~~~f a b) := by
  intro a b k hk
  simp only [BitVec.getLsbD_not, decide_eq_true hk, Bool.true_and, hf a b k hk]

/-- A word whose bits are those of a bitwise result is that result. -/
theorem Bitwise.eq_of_bits {op : Bool → Bool → Bool} {f : Word → Word → Word} (hf : Bitwise op f) {a b r : Word}
    (hr : ∀ k < 32, r.getLsbD k = op (a.getLsbD k) (b.getLsbD k)) : r = f a b :=
  BitVec.eq_of_getLsbD_eq fun k hk => (hr k hk).trans (hf a b k hk).symm

/-- The zero-extended immediate has the immediate's bits below bit 16 and zeros from there on (30_encoding.md R90). -/
theorem zext16_getLsbD (imm : Half) {k : Nat} (hk : k < 32) :
    (zext16 imm).getLsbD k = (decide (k < 16) && imm.getLsbD k) := by
  rw [zext16, BitVec.getLsbD_setWidth, decide_eq_true hk, Bool.true_and]
  by_cases h : k < 16
  · simp [h]
  · simp [h, BitVec.getLsbD_of_ge imm k (by omega)]

/-! ### The end of an instruction under the two-NOP rule -/

/-- The two-NOP rule for fewer register operands asks no more. -/
theorem namesOk_of_subset {s : State} {few many : List RegIdx} (h : few ⊆ many) (hn : NamesOk s many) :
    NamesOk s few :=
  fun hm => hn (h hm)

/-- A guarded instruction with a destination has its one effect, in whatever order its operands are named. -/
theorem guarded_finish_effect {checked named : List RegIdx} {k : Executed} {rd : RegIdx} {v : Word} {s : State}
    (hc : checked ⊆ named) (hn : NamesOk s named) (hd : DestOk s rd v) :
    ∃ t, guarded checked s (finish k rd v s) = .next t ∧ RegisterEffect k s.sr.flags s.bus rd v s t := by
  rw [guarded_ok (namesOk_of_subset hc hn)]
  exact finish_effect hd

theorem rr_operands_subset (rd rs1 rs2 : RegIdx) : [rs1, rs2, rd] ⊆ [rd, rs1, rs2] := by
  simp

theorem ri_operands_subset (rd rs1 : RegIdx) : [rs1, rd] ⊆ [rd, rs1] := by
  simp

/-! ### The two formats -/

/-- An RR-type instruction that writes the bitwise result `f` of its two source registers. -/
theorem bitwise_register_form {s : State} {rd rs1 rs2 : RegIdx} {i : Instr} {func : BitVec 11} {base r : Word}
    {op : Bool → Bool → Bool} {f : Word → Word → Word} (hf : Bitwise op f)
    (henc : encode i = encodeRR func rd rs1 rs2) (hbase : base = 0#15 ++ func ++ 1#6)
    (hexec : exec i s =
      guarded [rs1, rs2, rd] s (finish (.dest rd) rd (f (readReg s .first rs1) (readReg s .second rs2)) s))
    (hr : ∀ k < 32, r.getLsbD k = op ((readReg s .first rs1).getLsbD k) ((readReg s .second rs2).getLsbD k)) :
    encode i = rrWord rs1 rs2 rd base ∧
    (NamesOk s [rd, rs1, rs2] → DestOk s rd r →
      ∃ t, exec i s = .next t ∧ RegisterEffect (.dest rd) s.sr.flags s.bus rd r s t) := by
  refine ⟨henc.trans (encodeRR_eq func rd rs1 rs2 hbase), fun hn hd => ?_⟩
  rw [hexec, ← hf.eq_of_bits hr]
  exact guarded_finish_effect (rr_operands_subset rd rs1 rs2) hn hd

/-- An RI-type instruction that writes the bitwise result `f` of its source register and its zero-extended immediate. -/
theorem bitwise_immediate_form {s : State} {rd rs1 : RegIdx} {imm : Half} {i : Instr} {opcode : BitVec 6}
    {base r : Word} {op : Bool → Bool → Bool} {f : Word → Word → Word} (hf : Bitwise op f)
    (henc : encode i = encodeRI opcode imm rs1 rd) (hbase : base = 0#26 ++ opcode)
    (hexec : exec i s = guarded [rs1, rd] s (finish (.dest rd) rd (f (readReg s .first rs1) (zext16 imm)) s))
    (hr : ∀ k < 32, r.getLsbD k = op ((readReg s .first rs1).getLsbD k) (decide (k < 16) && imm.getLsbD k)) :
    encode i = riWord imm rs1 rd base ∧
    (NamesOk s [rd, rs1] → DestOk s rd r →
      ∃ t, exec i s = .next t ∧ RegisterEffect (.dest rd) s.sr.flags s.bus rd r s t) := by
  have hbits : ∀ k < 32, r.getLsbD k = op ((readReg s .first rs1).getLsbD k) ((zext16 imm).getLsbD k) :=
    fun k hk => by rw [zext16_getLsbD imm hk]; exact hr k hk
  refine ⟨henc.trans (encodeRI_eq opcode imm rs1 rd hbase), fun hn hd => ?_⟩
  rw [hexec, ← hf.eq_of_bits hbits]
  exact guarded_finish_effect (ri_operands_subset rd rs1) hn hd

/-! ### The statements -/

/-- Settles O23: each of the five rows (AND, OR, XOR, NAND, NOR) is an RR-type instruction with a bitwise result; the
word and the answer of each are read off its arms of `encode` and `exec`. NAND and NOR are the complements of AND and OR. -/
theorem logicalRegisterForms : Obligations.LogicalRegisterForms := by
  intro s rd rs1 rs2 i base r op hrow hr
  simp only [List.mem_cons, List.not_mem_nil, or_false, Prod.mk.injEq] at hrow
  rcases hrow with ⟨rfl, rfl, rfl⟩ | ⟨rfl, rfl, rfl⟩ | ⟨rfl, rfl, rfl⟩ | ⟨rfl, rfl, rfl⟩ | ⟨rfl, rfl, rfl⟩
  · exact bitwise_register_form bitwise_and rfl rfl rfl hr
  · exact bitwise_register_form bitwise_or rfl rfl rfl hr
  · exact bitwise_register_form bitwise_xor rfl rfl rfl hr
  · exact bitwise_register_form bitwise_and.complement rfl rfl rfl hr
  · exact bitwise_register_form bitwise_or.complement rfl rfl rfl hr

/-- Settles O24: each of the three rows (ANDI, ORI, XORI) is an RI-type instruction with a bitwise result of the
zero-extended immediate. -/
theorem logicalImmediateForms : Obligations.LogicalImmediateForms := by
  intro s rd rs1 imm i opc r op hrow hr
  simp only [List.mem_cons, List.not_mem_nil, or_false, Prod.mk.injEq] at hrow
  rcases hrow with ⟨rfl, rfl, rfl⟩ | ⟨rfl, rfl, rfl⟩ | ⟨rfl, rfl, rfl⟩
  · exact bitwise_immediate_form bitwise_and rfl rfl rfl hr
  · exact bitwise_immediate_form bitwise_or rfl rfl rfl hr
  · exact bitwise_immediate_form bitwise_xor rfl rfl rfl hr

end Sys2Proof.Machine
end

section
/-!
The shift instructions (42_shift.md R145 to R153): the model's word shifts are the shift functions of R153, so a result
given by its numeric value is the value the model computes; LSOI writes the concatenation of two halfwords (R152).
-/

namespace Sys2Proof.Machine

/-! ### The two formats -/

/-- An RR-type instruction that writes the value `v`, under the two-NOP rule for its three registers. -/
theorem register_form {s : State} {rd rs1 rs2 : RegIdx} {i : Instr} {func : BitVec 11} {base v r : Word}
    (henc : encode i = encodeRR func rd rs1 rs2) (hbase : base = 0#15 ++ func ++ 1#6)
    (hexec : exec i s = guarded [rs1, rs2, rd] s (finish (.dest rd) rd v s)) (hr : r = v) :
    encode i = rrWord rs1 rs2 rd base ∧
    (NamesOk s [rd, rs1, rs2] → DestOk s rd r →
      ∃ t, exec i s = .next t ∧ RegisterEffect (.dest rd) s.sr.flags s.bus rd r s t) := by
  subst hr
  refine ⟨henc.trans (encodeRR_eq func rd rs1 rs2 hbase), fun hn hd => ?_⟩
  rw [hexec]
  exact guarded_finish_effect (rr_operands_subset rd rs1 rs2) hn hd

/-- An RI-type instruction that writes the value `v`, under the two-NOP rule for its two registers. -/
theorem immediate_form {s : State} {rd rs1 : RegIdx} {imm : Half} {i : Instr} {opcode : BitVec 6} {base v r : Word}
    (henc : encode i = encodeRI opcode imm rs1 rd) (hbase : base = 0#26 ++ opcode)
    (hexec : exec i s = guarded [rs1, rd] s (finish (.dest rd) rd v s)) (hr : r = v) :
    encode i = riWord imm rs1 rd base ∧
    (NamesOk s [rd, rs1] → DestOk s rd r →
      ∃ t, exec i s = .next t ∧ RegisterEffect (.dest rd) s.sr.flags s.bus rd r s t) := by
  subst hr
  refine ⟨henc.trans (encodeRI_eq opcode imm rs1 rd hbase), fun hn hd => ?_⟩
  rw [hexec]
  exact guarded_finish_effect (ri_operands_subset rd rs1) hn hd

/-! ### The shift count and the shift functions (42_shift.md R153) -/

/-- The low five bits of a register are its value modulo 32. -/
theorem shiftCount_eq_mod (v : Word) : shiftCount v = v.toNat % 32 := by
  rw [shiftCount, BitVec.extractLsb'_toNat, Nat.shiftRight_zero]

/-- The low five bits of an immediate are its value modulo 32; the others are ignored. -/
theorem shiftCountImm_eq_mod (v : Half) : shiftCountImm v = v.toNat % 32 := by
  rw [shiftCountImm, BitVec.extractLsb'_toNat, Nat.shiftRight_zero]

/-- `a << n`: multiplication by 2^n modulo 2^32. -/
theorem eq_shiftLeft_iff (r a : Word) (n : Nat) : r = a <<< n ↔ r.toNat = a.toNat * 2 ^ n % 2 ^ 32 := by
  rw [← BitVec.toNat_inj, BitVec.toNat_shiftLeft, Nat.shiftLeft_eq]

/-- `a >> n`: division by 2^n, unsigned. -/
theorem eq_ushiftRight_iff (r a : Word) (n : Nat) : r = a >>> n ↔ r.toNat = a.toNat / 2 ^ n := by
  rw [← BitVec.toNat_inj, BitVec.toNat_ushiftRight, Nat.shiftRight_eq_div_pow]

/-- `a >>> n`: division by 2^n, signed and rounded down. -/
theorem eq_sshiftRight_iff (r a : Word) (n : Nat) : r = a.sshiftRight n ↔ r.toInt = a.toInt / 2 ^ n := by
  rw [← BitVec.toInt_inj, BitVec.toInt_sshiftRight, Int.shiftRight_eq_div_pow, Nat.cast_pow, Nat.cast_ofNat]

/-! ### The halfwords of LSOI (42_shift.md R152) -/

/-- Since the low 16 bits of the shifted value are 0, the OR is a concatenation. -/
theorem shiftLeft_or_zext16 (a : Word) (imm : Half) : (a <<< 16) ||| zext16 imm = a.extractLsb' 0 16 ++ imm := by
  refine BitVec.eq_of_getLsbD_eq fun k hk => ?_
  rw [BitVec.getLsbD_or, BitVec.getLsbD_shiftLeft, zext16_getLsbD imm hk, BitVec.getLsbD_append]
  by_cases hlow : k < 16
  · simp [hlow]
  · have hhigh : k - 16 < 16 := by omega
    simp [hlow, hk, hhigh]

/-- The value LSOI writes, as a number: the low halfword of the source above the immediate. -/
theorem shiftLeft_or_zext16_toNat (a : Word) (imm : Half) :
    ((a <<< 16) ||| zext16 imm).toNat = a.toNat % 2 ^ 16 * 2 ^ 16 + imm.toNat := by
  rw [shiftLeft_or_zext16, toNat_append_add, extract_toNat, pow_zero, Nat.div_one]

/-! ### The statements -/

/-- Settles O25: LLS, LRS and ARS are RR-type instructions whose count is that of R153 and whose values are its three
shift functions. -/
theorem shiftRegisterForms : Obligations.ShiftRegisterForms := by
  intro s rd rs1 rs2 i base a r n p ha hn hrow hp
  rw [← shiftCount_eq_mod] at hn
  subst ha hn
  simp only [List.mem_cons, List.not_mem_nil, or_false, Prod.mk.injEq] at hrow
  rcases hrow with ⟨rfl, rfl, rfl⟩ | ⟨rfl, rfl, rfl⟩ | ⟨rfl, rfl, rfl⟩
  · exact register_form rfl rfl rfl ((eq_shiftLeft_iff _ _ _).mpr hp)
  · exact register_form rfl rfl rfl ((eq_ushiftRight_iff _ _ _).mpr hp)
  · exact register_form rfl rfl rfl ((eq_sshiftRight_iff _ _ _).mpr hp)

/-- Settles O26: LLSI, LRSI and ARSI are RI-type instructions with the same three shift functions, their count taken
from the low five bits of the immediate. -/
theorem shiftImmediateForms : Obligations.ShiftImmediateForms := by
  intro s rd rs1 imm i opc a r n p ha hn hrow hp
  rw [← shiftCountImm_eq_mod] at hn
  subst ha hn
  simp only [List.mem_cons, List.not_mem_nil, or_false, Prod.mk.injEq] at hrow
  rcases hrow with ⟨rfl, rfl, rfl⟩ | ⟨rfl, rfl, rfl⟩ | ⟨rfl, rfl, rfl⟩
  · exact immediate_form rfl rfl rfl ((eq_shiftLeft_iff _ _ _).mpr hp)
  · exact immediate_form rfl rfl rfl ((eq_ushiftRight_iff _ _ _).mpr hp)
  · exact immediate_form rfl rfl rfl ((eq_sshiftRight_iff _ _ _).mpr hp)

/-- Settles O27: LSOI is an RI-type instruction; a word with the stated number is the concatenation it writes. -/
theorem shiftOrImmediate : Obligations.ShiftOrImmediate := by
  intro s rd rs1 imm r hr
  exact immediate_form rfl rfl rfl (BitVec.eq_of_toNat_eq (hr.trans (shiftLeft_or_zext16_toNat _ imm).symm))

end Sys2Proof.Machine
end

section
/-!
The compare and sign-extension instructions (43_compare_extend.md R160 to R168): a comparison writes the truth value of
the model's comparison, which is the exact comparison of the numbers; an extension writes the low bits of its source as a
signed number.
-/

namespace Sys2Proof.Machine

/-! ### The RT format -/

/-- An RT-type instruction that writes the value `v`, under the two-NOP rule for its two registers. -/
theorem extension_form {s : State} {rd rs1 : RegIdx} {i : Instr} {func : BitVec 11} {base v r : Word}
    (henc : encode i = encodeRT func rd rs1) (hbase : base = 0#10 ++ func ++ 2#5 ++ 0#6)
    (hexec : exec i s = guarded [rs1, rd] s (finish (.dest rd) rd v s)) (hr : r = v) :
    encode i = rtWord rd rs1 base ∧
    (NamesOk s [rd, rs1] → DestOk s rd r →
      ∃ t, exec i s = .next t ∧ RegisterEffect (.dest rd) s.sr.flags s.bus rd r s t) := by
  subst hr
  refine ⟨henc.trans (encodeRT_eq func rd rs1 hbase), fun hn hd => ?_⟩
  rw [hexec]
  exact guarded_finish_effect (ri_operands_subset rd rs1) hn hd

/-! ### The truth value of a comparison (43_compare_extend.md R160) -/

/-- A word that is 1 or 0 as the condition `p` holds or not is the truth word of every Boolean that decides `p`. -/
theorem eq_truthWord {b : Bool} {p : Prop} {r : Word} (hb : b = true ↔ p) (hr : p ∧ r = 1#32 ∨ ¬p ∧ r = 0#32) :
    r = truthWord b := by
  rcases hr with ⟨hp, rfl⟩ | ⟨hp, rfl⟩
  · exact (if_pos (hb.mpr hp)).symm
  · exact (if_neg (mt hb.mp hp)).symm

/-! ### The low bits of a word as a signed number -/

/-- The sign extension of the low `n` bits of a word is its value brought modulo 2^n into the signed range of `n` bits;
the bits from `n` on are ignored. -/
theorem signExtend_low_toInt (a : Word) {n : Nat} (hn : n ≤ 32) :
    ((a.extractLsb' 0 n).signExtend 32).toInt = (a.toNat : Int).bmod (2 ^ n) := by
  rw [BitVec.toInt_signExtend_of_le hn, BitVec.toInt_eq_toNat_bmod, extract_toNat, pow_zero, Nat.div_one,
    Int.natCast_emod, Int.emod_bmod]

/-! ### The statements -/

/-- Settles O28: ELT, ELTU, EEQ and ENEQ are RR-type instructions that write a truth word; the Boolean of each row
decides the row's comparison. -/
theorem compareForms : Obligations.CompareForms := by
  intro s rd rs1 rs2 i base a b r p ha hb hrow hr
  subst ha hb
  simp only [List.mem_cons, List.not_mem_nil, or_false, Prod.mk.injEq] at hrow
  rcases hrow with ⟨rfl, rfl, rfl⟩ | ⟨rfl, rfl, rfl⟩ | ⟨rfl, rfl, rfl⟩ | ⟨rfl, rfl, rfl⟩
  · exact register_form rfl rfl rfl (eq_truthWord BitVec.slt_iff_toInt_lt hr)
  · exact register_form rfl rfl rfl (eq_truthWord BitVec.ult_iff_toNat_lt hr)
  · exact register_form rfl rfl rfl (eq_truthWord beq_iff_eq hr)
  · exact register_form rfl rfl rfl (eq_truthWord bne_iff_ne hr)

/-- Settles O29: EXBW is an RT-type instruction; a word with the stated signed number is the sign extension of the low
byte that it writes. -/
theorem extendByte : Obligations.ExtendByte := by
  intro s rd rs1 r hr
  exact extension_form rfl rfl rfl (BitVec.eq_of_toInt_eq (hr.trans (signExtend_low_toInt _ (by decide)).symm))

end Sys2Proof.Machine
end

section
/-!
The control transfers with a computed target (45_control_transfer.md R196 to R202): a target given as a number, the next
instruction plus a signed offset modulo 2^32, is the model's word addition of the sign-extended offset; the rest is the
one effect of a jump, or of a jump that leaves a link.
-/

namespace Sys2Proof.Machine

/-! ### The target of a relative transfer -/

/-- The address of the next instruction as a number (45_control_transfer.md R195). -/
theorem eq_nextPc_iff (s : State) (target : Word) :
    target = s.nextPc ↔ target.toNat = (s.pc.toNat + 4) % 2 ^ 32 := by
  rw [← BitVec.toNat_inj, State.nextPc, BitVec.toNat_add]
  rfl

/-- Adding a sign-extended offset to a word adds its signed number modulo 2^32, whatever the offset's width. -/
theorem eq_add_signExtend_iff {n : Nat} (r a : Word) (off : BitVec n) :
    r = a + off.signExtend 32 ↔ (r.toNat : Int) = (a.toNat + off.toInt) % 2 ^ 32 := by
  have hsum : a + off.signExtend 32 = BitVec.ofInt 32 (a.toNat + off.toInt) := by
    rw [BitVec.ofInt_add, BitVec.ofInt_natCast, BitVec.ofNat_toNat, BitVec.setWidth_eq, BitVec.signExtend]
  rw [hsum, ← BitVec.toNat_inj, BitVec.toNat_ofInt]
  omega

/-- The next instruction plus an offset, all of it taken modulo 2^32 at once. -/
theorem eq_nextPc_add_signExtend_iff {n : Nat} (s : State) (target : Word) (off : BitVec n) :
    target = s.nextPc + off.signExtend 32 ↔ (target.toNat : Int) = (s.pc.toNat + 4 + off.toInt) % 2 ^ 32 := by
  have hnext := (eq_nextPc_iff s s.nextPc).mp rfl
  rw [eq_add_signExtend_iff]
  omega

theorem eq_branchTarget_iff (s : State) (off : Half) (target : Word) :
    target = branchTarget s off ↔ (target.toNat : Int) = (s.pc.toNat + 4 + off.toInt) % 2 ^ 32 :=
  eq_nextPc_add_signExtend_iff s target off

theorem eq_jumpTarget_iff (s : State) (off : BitVec 26) (target : Word) :
    target = jumpTarget s off ↔ (target.toNat : Int) = (s.pc.toNat + 4 + off.toInt) % 2 ^ 32 :=
  eq_nextPc_add_signExtend_iff s target off

/-! ### Conditional branches -/

/-- The test of BRZ as a statement about the register's number (45_control_transfer.md R196). -/
theorem beq_zero_iff_toNat (a : Word) : (a == 0#32) = true ↔ a.toNat = 0 :=
  beq_iff_eq.trans BitVec.toNat_inj.symm

/-- The test of BRNZ as a statement about the register's number (45_control_transfer.md R198). -/
theorem bne_zero_iff_toNat (a : Word) : (a != 0#32) = true ↔ a.toNat ≠ 0 :=
  bne_iff_ne.trans BitVec.toNat_ne_iff_ne.symm

/-- A word that is one of the two branch targets as the condition `p` holds or not is the target selected by every
Boolean that decides `p`. -/
theorem eq_selectedTarget {s : State} {off : Half} {taken : Bool} {p : Prop} {target : Word} (hp : taken = true ↔ p)
    (ht : p ∧ (target.toNat : Int) = (s.pc.toNat + 4 + off.toInt) % 2 ^ 32 ∨
      ¬p ∧ target.toNat = (s.pc.toNat + 4) % 2 ^ 32) :
    target = if taken then branchTarget s off else s.nextPc := by
  rcases ht with ⟨hy, ht⟩ | ⟨hn, ht⟩
  · rw [if_pos (hp.mpr hy), eq_branchTarget_iff, ht]
  · rw [if_neg (mt hp.mp hn), eq_nextPc_iff, ht]

/-- A branch to the selected target, under the two-NOP rule for its register. -/
theorem branch_form {s : State} {rs1 : RegIdx} {off : Half} {i : Instr} {opcode : BitVec 6} {base target : Word}
    {taken : Bool} (henc : encode i = encodeRI opcode off rs1 0) (hbase : base = 0#26 ++ opcode)
    (hexec : exec i s = guarded [rs1] s (branchIf taken off s))
    (ht : target = if taken then branchTarget s off else s.nextPc) :
    encode i = brWord off rs1 base ∧
    (NamesOk s [rs1] → ∃ t, exec i s = .next t ∧ JumpEffect target s t) := by
  subst ht
  refine ⟨henc.trans (encodeRI_eq_br opcode off rs1 hbase), fun hn => ?_⟩
  rw [hexec, guarded_ok hn]
  exact ⟨_, rfl, jump_effect s _⟩

/-! ### The statements -/

/-- Settles O39: BRZ and BRNZ are the branches whose Boolean decides the row's condition. -/
theorem branchResult : Obligations.BranchResult := by
  intro s rs1 off i opc a target p ha hrow ht
  subst ha
  simp only [List.mem_cons, List.not_mem_nil, or_false, Prod.mk.injEq] at hrow
  rcases hrow with ⟨rfl, rfl, rfl⟩ | ⟨rfl, rfl, rfl⟩
  · exact branch_form rfl rfl rfl (eq_selectedTarget (beq_zero_iff_toNat _) ht)
  · exact branch_form rfl rfl rfl (eq_selectedTarget (bne_zero_iff_toNat _) ht)

/-- Settles O40: a word with the stated number is the model's jump target; JP has the effect of a jump to it, JPL that of
a jump with a link. -/
theorem jumpResult : Obligations.JumpResult := by
  intro s off target ht
  obtain rfl := (eq_jumpTarget_iff s off target).mpr ht
  exact ⟨encodeJP_eq _ off rfl, encodeJP_eq _ off rfl, ⟨_, rfl, jump_effect s _⟩, ⟨_, rfl, link_effect s _⟩⟩

end Sys2Proof.Machine
end

section
/-!
The decoder and the encoder (30_encoding.md R80 to R97): a word is put together again from the fields of its format, so a
decoded word is the encoding of what it decodes to; a row of the opcode table matches the words of one instruction; and
the refused words are told by the numbers of their fields.
-/

namespace Sys2Proof

/-! ### A word is fixed by the fields of its format -/

theorem encodeRR_of_fields {w : Word} (h : opcodeOf w = 1#6) :
    encodeRR (w.extractLsb' 6 11) (w.extractLsb' 17 5) (w.extractLsb' 27 5) (w.extractLsb' 22 5) = w := by
  have hop := congrArg BitVec.toNat h
  simp only [opcodeOf, extract_toNat, BitVec.toNat_ofNat] at hop
  apply BitVec.eq_of_toNat_eq
  rw [encodeRR_toNat]
  simp only [extract_toNat]
  omega

theorem encodeRI_of_fields (w : Word) :
    encodeRI (opcodeOf w) (w.extractLsb' 16 16) (w.extractLsb' 11 5) (w.extractLsb' 6 5) = w := by
  apply BitVec.eq_of_toNat_eq
  rw [encodeRI_toNat]
  simp only [opcodeOf, extract_toNat]
  omega

theorem encodeJP_of_fields (w : Word) : encodeJP (opcodeOf w) (w.extractLsb' 6 26) = w := by
  apply BitVec.eq_of_toNat_eq
  rw [encodeJP_toNat]
  simp only [opcodeOf, extract_toNat]
  omega

theorem encodeLow_of_fields {w : Word} (h : w.extractLsb' 11 21 = 0#21) :
    encodeLow (opcodeOf w) (w.extractLsb' 6 5) = w := by
  have hres := congrArg BitVec.toNat h
  simp only [extract_toNat, BitVec.toNat_ofNat] at hres
  apply BitVec.eq_of_toNat_eq
  rw [encodeLow_toNat]
  simp only [opcodeOf, extract_toNat]
  omega

theorem encodeRT_of_fields {w : Word} (h : opcodeOf w = 0#6) (hs : w.extractLsb' 6 5 = 2#5) :
    encodeRT (w.extractLsb' 11 11) (w.extractLsb' 27 5) (w.extractLsb' 22 5) = w := by
  have hop := congrArg BitVec.toNat h
  have hsub := congrArg BitVec.toNat hs
  simp only [opcodeOf, extract_toNat, BitVec.toNat_ofNat] at hop hsub
  apply BitVec.eq_of_toNat_eq
  rw [encodeRT_toNat]
  simp only [extract_toNat]
  omega

/-! ### The decoder follows the opcode, then the group -/

theorem opcodeOf_encodeRR (f : BitVec 11) (rd rs1 rs2 : RegIdx) : opcodeOf (encodeRR f rd rs1 rs2) = 1#6 :=
  (encodeRR_fields f rd rs1 rs2).2.2.2.2

theorem opcodeOf_encodeRI (op : BitVec 6) (imm : Half) (hi lo : RegIdx) : opcodeOf (encodeRI op imm hi lo) = op :=
  (encodeRI_fields op imm hi lo).2.2.2

theorem opcodeOf_encodeJP (op : BitVec 6) (off : BitVec 26) : opcodeOf (encodeJP op off) = op :=
  (encodeJP_fields op off).2

theorem opcodeOf_encodeLow (op : BitVec 6) (lo : BitVec 5) : opcodeOf (encodeLow op lo) = op :=
  (encodeLow_fields op lo).2.2

theorem opcodeOf_encodeRT (f : BitVec 11) (rd rs1 : RegIdx) : opcodeOf (encodeRT f rd rs1) = 0#6 :=
  (encodeRT_fields f rd rs1).2.2.2.2

theorem decode_of_opcode_zero {w : Word} (h : opcodeOf w = 0#6) : decode w = decodeSystem w := by
  simp only [decode, h]

theorem decode_of_opcode_one {w : Word} (h : opcodeOf w = 1#6) : decode w = decodeRR w := by
  simp only [decode, h]

/-- The decoder reads an RR-type word through its `func` and its three registers. -/
theorem decode_encodeRR (f : BitVec 11) (rd rs1 rs2 : RegIdx) :
    decode (encodeRR f rd rs1 rs2) = decodeRR (encodeRR f rd rs1 rs2) :=
  decode_of_opcode_one (opcodeOf_encodeRR f rd rs1 rs2)

/-- The word of every instruction decodes to it: by format, from the fields the decoder reads. -/
theorem decode_encode (i : Instr) : decode (encode i) = .ok i := by
  cases i
  case nop => rfl
  case reti => rfl
  case jp | jpl | trap =>
    simp only [encode, decode, opcodeOf_encodeJP, encodeJP_fields, BitVec.ofNat_eq_ofNat]
  case jpr | jprl =>
    simp only [encode, decode, opcodeOf_encodeLow, encodeLow_fields, BitVec.ofNat_eq_ofNat, if_true]
  case exbw rd rs1 | exhw rd rs1 =>
    simp only [encode, decode_of_opcode_zero (opcodeOf_encodeRT _ _ _), decodeSystem, encodeRT_fields,
      BitVec.ofNat_eq_ofNat]
  case addi | subi | andi | ori | xori | llsi | lrsi | arsi | lsoi | lb | lh | lw | sb | sh | sw =>
    simp only [encode, decode, opcodeOf_encodeRI, encodeRI_fields, BitVec.ofNat_eq_ofNat]
  case brz | brnz =>
    simp only [encode, decode, opcodeOf_encodeRI, encodeRI_fields, BitVec.ofNat_eq_ofNat]
    rfl
  all_goals simp only [encode, decode_encodeRR, decodeRR, encodeRR_fields, BitVec.ofNat_eq_ofNat]

/-- The four bytes of a word are the word's (20_memory.md R55). -/
theorem wordOfBytes_extract (w : Word) :
    wordOfBytes (w.extractLsb' 24 8) (w.extractLsb' 16 8) (w.extractLsb' 8 8) (w.extractLsb' 0 8) = w := by
  apply BitVec.eq_of_toNat_eq
  rw [wordOfBytes_toNat]
  simp only [extract_toNat]
  omega

theorem decodeBytes_bytesOfWord (w : Word) : decodeBytes (bytesOfWord w) = decode w := by
  rw [bytesOfWord, decodeBytes, wordOfBytes_extract]

/-! ### A decoded word is the encoding of what it decodes to -/

/-- The words the RR-type decoder accepts. -/
theorem encode_of_decodeRR {w : Word} {i : Instr} (hop : opcodeOf w = 1#6) (h : decodeRR w = .ok i) :
    encode i = w := by
  have hw := encodeRR_of_fields hop
  simp only [decodeRR] at h
  split at h <;> cases h
  all_goals (next hf => rw [hf] at hw; exact hw)

/-- The words the decoder of the SP and RT group accepts. -/
theorem encode_of_decodeSystem {w : Word} {i : Instr} (hop : opcodeOf w = 0#6) (h : decodeSystem w = .ok i) :
    encode i = w := by
  simp only [decodeSystem] at h
  split at h
  case h_4 => cases h
  case h_3 hsub =>
    have hw := encodeRT_of_fields hop hsub
    split at h <;> cases h
    all_goals (next hf => rw [hf] at hw; exact hw)
  all_goals
    next hsub =>
    split at h
    · next hres =>
      have hw := encodeLow_of_fields hres
      rw [hop, hsub] at hw
      cases h
      exact hw
    · cases h

/-- Every word the decoder accepts is the word of the instruction it answers: by the opcode, from the fields. -/
theorem encode_of_decode {w : Word} {i : Instr} (h : decode w = .ok i) : encode i = w := by
  have hri := encodeRI_of_fields w
  have hjp := encodeJP_of_fields w
  simp only [decode] at h
  split at h
  case h_1 hop => exact encode_of_decodeSystem hop h
  case h_2 hop => exact encode_of_decodeRR hop h
  case h_9 hop | h_10 hop =>
    split at h
    · next hlo => rw [hop, hlo] at hri; cases h; exact hri
    · cases h
  case h_14 hop | h_15 hop =>
    split at h
    · next hres => have hw := encodeLow_of_fields hres; rw [hop] at hw; cases h; exact hw
    · cases h
  case h_11 hop | h_12 hop | h_13 hop => rw [hop] at hjp; cases h; exact hjp
  case h_25 => cases h
  all_goals (next hop => rw [hop] at hri; cases h; exact hri)

end Sys2Proof
end

section
/-!
The opcode table (30_encoding.md R92, R94): a row's mask and value fix the opcode and the selecting fields of a word, so a
word matches a row exactly when it is the encoding of that row's instruction; and no word matches two rows.
-/

namespace Sys2Proof

/-! ### The masks of the table as field extractions -/

/-- A mask of the low `n` bits reads a word modulo 2^n. -/
theorem and_lowMask_toNat (w : Word) {m : Word} {n : Nat} (hm : m.toNat = 2 ^ n - 1) :
    (w &&& m).toNat = w.toNat % 2 ^ n := by
  rw [BitVec.toNat_and, hm, Nat.and_two_pow_sub_one_eq_mod]

/-- The mask of JPR and JPRL leaves out bits 10:6, the place of `rs1` (30_encoding.md R86). -/
theorem and_jprMask_toNat (w : Word) : (w &&& 0xFFFFF83F#32).toNat = w.toNat / 2 ^ 11 * 2 ^ 11 + w.toNat % 2 ^ 6 := by
  have h : w &&& 0xFFFFF83F#32 = w.extractLsb' 11 21 ++ 0#5 ++ w.extractLsb' 0 6 := by
    refine BitVec.eq_of_getLsbD_eq fun k hk => ?_
    simp only [BitVec.getLsbD_append, BitVec.getLsbD_and]
    interval_cases k <;> simp
  rw [h, toNat_append_add, toNat_append_add, extract_toNat, extract_toNat, BitVec.toNat_ofNat]
  omega

/-- The mask of the whole word leaves out nothing (NOP and RETI, 30_encoding.md R87). -/
theorem and_fullMask (w : Word) : w &&& 0xFFFFFFFF#32 = w :=
  BitVec.and_allOnes

/-! ### The words of a row are the encodings of its instruction -/

theorem encodeRR_eq_of_mask {w v : Word} {f : BitVec 11} (h : w &&& 0x0001FFFF#32 = v) (hv : v = 0#15 ++ f ++ 1#6) :
    encodeRR f (w.extractLsb' 17 5) (w.extractLsb' 27 5) (w.extractLsb' 22 5) = w := by
  have hn := congrArg BitVec.toNat (h.trans hv)
  rw [and_lowMask_toNat (n := 17) w rfl] at hn
  simp only [toNat_append_add, BitVec.toNat_ofNat] at hn
  apply BitVec.eq_of_toNat_eq
  rw [encodeRR_toNat]
  simp only [extract_toNat]
  omega

theorem encodeRR_and_mask (f : BitVec 11) (rd rs1 rs2 : RegIdx) :
    encodeRR f rd rs1 rs2 &&& 0x0001FFFF#32 = 0#15 ++ f ++ 1#6 := by
  apply BitVec.eq_of_toNat_eq
  rw [and_lowMask_toNat (n := 17) _ rfl, encodeRR_toNat]
  simp only [toNat_append_add, BitVec.toNat_ofNat]
  omega

theorem opcodeOf_of_mask {w v : Word} {op : BitVec 6} (h : w &&& 0x0000003F#32 = v) (hv : v = 0#26 ++ op) :
    opcodeOf w = op := by
  have hn := congrArg BitVec.toNat (h.trans hv)
  rw [and_lowMask_toNat (n := 6) w rfl] at hn
  simp only [toNat_append_add, BitVec.toNat_ofNat] at hn
  apply BitVec.eq_of_toNat_eq
  simp only [opcodeOf, extract_toNat]
  omega

theorem and_opcodeMask (w : Word) : w &&& 0x0000003F#32 = 0#26 ++ opcodeOf w := by
  apply BitVec.eq_of_toNat_eq
  rw [and_lowMask_toNat (n := 6) w rfl]
  simp only [toNat_append_add, BitVec.toNat_ofNat, opcodeOf, extract_toNat]
  omega

theorem encodeRI_eq_of_mask {w v : Word} {op : BitVec 6} (h : w &&& 0x0000003F#32 = v) (hv : v = 0#26 ++ op) :
    encodeRI op (w.extractLsb' 16 16) (w.extractLsb' 11 5) (w.extractLsb' 6 5) = w := by
  rw [← opcodeOf_of_mask h hv]
  exact encodeRI_of_fields w

theorem encodeJP_eq_of_mask {w v : Word} {op : BitVec 6} (h : w &&& 0x0000003F#32 = v) (hv : v = 0#26 ++ op) :
    encodeJP op (w.extractLsb' 6 26) = w := by
  rw [← opcodeOf_of_mask h hv]
  exact encodeJP_of_fields w

theorem encodeRI_and_mask (op : BitVec 6) (imm : Half) (hi lo : RegIdx) :
    encodeRI op imm hi lo &&& 0x0000003F#32 = 0#26 ++ op := by
  rw [and_opcodeMask, opcodeOf_encodeRI]

theorem encodeJP_and_mask (op : BitVec 6) (off : BitVec 26) : encodeJP op off &&& 0x0000003F#32 = 0#26 ++ op := by
  rw [and_opcodeMask, opcodeOf_encodeJP]

theorem encodeBR_eq_of_mask {w v : Word} {op : BitVec 6} (h : w &&& 0x000007FF#32 = v) (hv : v = 0#26 ++ op) :
    encodeRI op (w.extractLsb' 16 16) (w.extractLsb' 11 5) 0 = w := by
  have hn := congrArg BitVec.toNat (h.trans hv)
  rw [and_lowMask_toNat (n := 11) w rfl] at hn
  simp only [toNat_append_add, BitVec.toNat_ofNat] at hn
  apply BitVec.eq_of_toNat_eq
  rw [encodeRI_toNat]
  simp only [extract_toNat, BitVec.ofNat_eq_ofNat, BitVec.toNat_ofNat]
  omega

theorem encodeBR_and_mask (op : BitVec 6) (off : Half) (rs1 : RegIdx) :
    encodeRI op off rs1 0 &&& 0x000007FF#32 = 0#26 ++ op := by
  apply BitVec.eq_of_toNat_eq
  rw [and_lowMask_toNat (n := 11) _ rfl, encodeRI_toNat]
  simp only [toNat_append_add, BitVec.ofNat_eq_ofNat, BitVec.toNat_ofNat]
  omega

theorem encodeLow_eq_of_mask {w v : Word} {op : BitVec 6} (h : w &&& 0xFFFFF83F#32 = v) (hv : v = 0#26 ++ op) :
    encodeLow op (w.extractLsb' 6 5) = w := by
  have hn := congrArg BitVec.toNat (h.trans hv)
  rw [and_jprMask_toNat] at hn
  simp only [toNat_append_add, BitVec.toNat_ofNat] at hn
  apply BitVec.eq_of_toNat_eq
  rw [encodeLow_toNat]
  simp only [extract_toNat]
  omega

theorem encodeLow_and_mask (op : BitVec 6) (lo : BitVec 5) : encodeLow op lo &&& 0xFFFFF83F#32 = 0#26 ++ op := by
  apply BitVec.eq_of_toNat_eq
  rw [and_jprMask_toNat, encodeLow_toNat]
  simp only [toNat_append_add, BitVec.toNat_ofNat]
  omega

theorem encodeRT_eq_of_mask {w v : Word} {f : BitVec 11} (h : w &&& 0x003FFFFF#32 = v)
    (hv : v = 0#10 ++ f ++ 2#5 ++ 0#6) : encodeRT f (w.extractLsb' 27 5) (w.extractLsb' 22 5) = w := by
  have hn := congrArg BitVec.toNat (h.trans hv)
  rw [and_lowMask_toNat (n := 22) w rfl] at hn
  simp only [toNat_append_add, BitVec.toNat_ofNat] at hn
  apply BitVec.eq_of_toNat_eq
  rw [encodeRT_toNat]
  simp only [extract_toNat]
  omega

theorem encodeRT_and_mask (f : BitVec 11) (rd rs1 : RegIdx) :
    encodeRT f rd rs1 &&& 0x003FFFFF#32 = 0#10 ++ f ++ 2#5 ++ 0#6 := by
  apply BitVec.eq_of_toNat_eq
  rw [and_lowMask_toNat (n := 22) _ rfl, encodeRT_toNat]
  simp only [toNat_append_add, BitVec.toNat_ofNat]
  omega

/-! ### The table as a whole -/

/-- A word that matches a row is the encoding of the row's instruction, row by row in the table's order. -/
theorem encoding_of_row {w : Word} : ∀ r ∈ opcodeRows, w &&& r.1 = r.2 → ∃ i, encode i = w := by
  simp only [opcodeRows, List.forall_mem_append, List.forall_mem_cons, List.not_mem_nil, false_imp_iff, forall_const,
    and_true]
  exact
    ⟨⟨⟨fun h => ⟨.add _ _ _, encodeRR_eq_of_mask h rfl⟩, fun h => ⟨.sub _ _ _, encodeRR_eq_of_mask h rfl⟩,
        fun h => ⟨.mul _ _ _, encodeRR_eq_of_mask h rfl⟩, fun h => ⟨.div _ _ _, encodeRR_eq_of_mask h rfl⟩,
        fun h => ⟨.mod _ _ _, encodeRR_eq_of_mask h rfl⟩, fun h => ⟨.divu _ _ _, encodeRR_eq_of_mask h rfl⟩,
        fun h => ⟨.modu _ _ _, encodeRR_eq_of_mask h rfl⟩, fun h => ⟨.and _ _ _, encodeRR_eq_of_mask h rfl⟩,
        fun h => ⟨.or _ _ _, encodeRR_eq_of_mask h rfl⟩, fun h => ⟨.xor _ _ _, encodeRR_eq_of_mask h rfl⟩,
        fun h => ⟨.nand _ _ _, encodeRR_eq_of_mask h rfl⟩, fun h => ⟨.nor _ _ _, encodeRR_eq_of_mask h rfl⟩,
        fun h => ⟨.lls _ _ _, encodeRR_eq_of_mask h rfl⟩, fun h => ⟨.lrs _ _ _, encodeRR_eq_of_mask h rfl⟩,
        fun h => ⟨.ars _ _ _, encodeRR_eq_of_mask h rfl⟩, fun h => ⟨.elt _ _ _, encodeRR_eq_of_mask h rfl⟩,
        fun h => ⟨.eltu _ _ _, encodeRR_eq_of_mask h rfl⟩, fun h => ⟨.eeq _ _ _, encodeRR_eq_of_mask h rfl⟩,
        fun h => ⟨.eneq _ _ _, encodeRR_eq_of_mask h rfl⟩⟩,
      fun h => ⟨.addi _ _ _, encodeRI_eq_of_mask h rfl⟩, fun h => ⟨.subi _ _ _, encodeRI_eq_of_mask h rfl⟩,
      fun h => ⟨.andi _ _ _, encodeRI_eq_of_mask h rfl⟩, fun h => ⟨.ori _ _ _, encodeRI_eq_of_mask h rfl⟩,
      fun h => ⟨.xori _ _ _, encodeRI_eq_of_mask h rfl⟩, fun h => ⟨.llsi _ _ _, encodeRI_eq_of_mask h rfl⟩,
      fun h => ⟨.lrsi _ _ _, encodeRI_eq_of_mask h rfl⟩, fun h => ⟨.arsi _ _ _, encodeRI_eq_of_mask h rfl⟩,
      fun h => ⟨.lsoi _ _ _, encodeRI_eq_of_mask h rfl⟩, fun h => ⟨.lb _ _ _, encodeRI_eq_of_mask h rfl⟩,
      fun h => ⟨.lh _ _ _, encodeRI_eq_of_mask h rfl⟩, fun h => ⟨.lw _ _ _, encodeRI_eq_of_mask h rfl⟩,
      fun h => ⟨.sb _ _ _, encodeRI_eq_of_mask h rfl⟩, fun h => ⟨.sh _ _ _, encodeRI_eq_of_mask h rfl⟩,
      fun h => ⟨.sw _ _ _, encodeRI_eq_of_mask h rfl⟩⟩,
    fun h => ⟨.brz _ _, encodeBR_eq_of_mask h rfl⟩, fun h => ⟨.brnz _ _, encodeBR_eq_of_mask h rfl⟩,
    fun h => ⟨.jp _, encodeJP_eq_of_mask h rfl⟩, fun h => ⟨.jpl _, encodeJP_eq_of_mask h rfl⟩,
    fun h => ⟨.trap _, encodeJP_eq_of_mask h rfl⟩, fun h => ⟨.jpr _, encodeLow_eq_of_mask h rfl⟩,
    fun h => ⟨.jprl _, encodeLow_eq_of_mask h rfl⟩, fun h => ⟨.nop, h.symm.trans (and_fullMask w)⟩,
    fun h => ⟨.reti, h.symm.trans (and_fullMask w)⟩, fun h => ⟨.exbw _ _, encodeRT_eq_of_mask h rfl⟩,
    fun h => ⟨.exhw _ _, encodeRT_eq_of_mask h rfl⟩⟩

/-- The encoding of every instruction matches a row of the table. -/
theorem row_of_encoding (i : Instr) : ∃ r ∈ opcodeRows, encode i &&& r.1 = r.2 := by
  cases i
  case nop | reti => exact ⟨(0xFFFFFFFF#32, _), by decide, and_fullMask _⟩
  case jp | jpl | trap => exact ⟨(0x0000003F#32, _), by decide, encodeJP_and_mask _ _⟩
  case jpr | jprl => exact ⟨(0xFFFFF83F#32, _), by decide, encodeLow_and_mask _ _⟩
  case exbw | exhw => exact ⟨(0x003FFFFF#32, _), by decide, encodeRT_and_mask _ _ _⟩
  case brz | brnz => exact ⟨(0x000007FF#32, _), by decide, encodeBR_and_mask _ _ _⟩
  case addi | subi | andi | ori | xori | llsi | lrsi | arsi | lsoi | lb | lh | lw | sb | sh | sw =>
    exact ⟨(0x0000003F#32, _), by decide, encodeRI_and_mask _ _ _ _⟩
  all_goals exact ⟨(0x0001FFFF#32, _), by decide, encodeRR_and_mask _ _ _ _⟩

/-- Two rows differ in a bit that both of them fix. -/
def SeparateRows (r q : Word × Word) : Prop := r.2 &&& q.1 ≠ q.2 &&& r.1

theorem opcodeRows_separate : opcodeRows.Pairwise SeparateRows := by
  unfold SeparateRows
  decide

/-- No word matches two separate rows. -/
theorem SeparateRows.not_both {r q : Word × Word} (h : SeparateRows r q) {w : Word} (hr : w &&& r.1 = r.2) :
    w &&& q.1 ≠ q.2 := by
  intro hq
  apply h
  rw [← hr, ← hq, BitVec.and_assoc, BitVec.and_assoc, BitVec.and_comm r.1 q.1]

theorem row_unique {w : Word} {r q : Word × Word} (hr : r ∈ opcodeRows) (hq : q ∈ opcodeRows)
    (hwr : w &&& r.1 = r.2) (hwq : w &&& q.1 = q.2) : r = q := by
  have symmetric : Std.Symm SeparateRows := ⟨fun _ _ h => h.symm⟩
  by_contra hne
  exact (opcodeRows_separate.forall hr hq hne).not_both hwr hwq

end Sys2Proof
end

section
/-!
The refused words (30_encoding.md R91, R93 to R97), by the numbers of the opcode in bits 5:0, the sub-opcode in bits 10:6
and the selecting fields above: what the decoder answers is told by two conditions on these numbers.
-/

namespace Sys2Proof

/-- Opcode, sub-opcode and reserved bits of a word whose reserved field is not 0 (30_encoding.md R91, R95). -/
def ReservedWord (n : Nat) : Prop :=
  ((n % 64 = 9 ∨ n % 64 = 10) ∧ n / 2 ^ 6 % 32 ≠ 0) ∨ ((n % 64 = 14 ∨ n % 64 = 15) ∧ n / 2 ^ 11 ≠ 0) ∨
    (n % 64 = 0 ∧ (n / 2 ^ 6 % 32 = 0 ∨ n / 2 ^ 6 % 32 = 1) ∧ n / 2 ^ 11 ≠ 0)

/-- The `func` numbers of the RR type (30_encoding.md R93). -/
def rrFuncs : List Nat :=
  [0x000, 0x001, 0x002, 0x003, 0x004, 0x005, 0x006, 0x100, 0x101, 0x102, 0x103, 0x104, 0x200, 0x201, 0x202,
   0x300, 0x301, 0x302, 0x303]

/-- Opcode, sub-opcode, sub-function or `func` of a word that is in no row (30_encoding.md R91, R93, R97). -/
def UnallocatedWord (n : Nat) : Prop :=
  (n % 64 = 0 ∧ 3 ≤ n / 2 ^ 6 % 32) ∨ (n % 64 = 0 ∧ n / 2 ^ 6 % 32 = 2 ∧ 2 ≤ n / 2 ^ 11 % 2 ^ 11) ∨
    (n % 64 = 1 ∧ n / 2 ^ 6 % 2 ^ 11 ∉ rrFuncs) ∨
    n % 64 = 8 ∨ (16 ≤ n % 64 ∧ n % 64 ≤ 31) ∨ 41 ≤ n % 64

/-- What the decoder answers, with the refusal conditions decided by the number `n` of the word. -/
inductive DecodeOutcome (n : Nat) : Except DecodeError Instr → Prop
  | accepted (i : Instr) (notReserved : ¬ReservedWord n) (allocated : ¬UnallocatedWord n) : DecodeOutcome n (.ok i)
  | reserved (reserved : ReservedWord n) (allocated : ¬UnallocatedWord n) : DecodeOutcome n (.error .reservedField)
  | unallocated (notReserved : ¬ReservedWord n) (unallocated : UnallocatedWord n) :
      DecodeOutcome n (.error .unallocated)

/-- The number of a field of a word. -/
theorem field_toNat {w : Word} {lo len n : Nat} (h : w.extractLsb' lo len = BitVec.ofNat len n) :
    w.toNat / 2 ^ lo % 2 ^ len = n % 2 ^ len := by
  rw [← extract_toNat, h, BitVec.toNat_ofNat]

/-- The number of the opcode of a word. -/
theorem opcode_toNat {w : Word} {n : Nat} (h : opcodeOf w = BitVec.ofNat 6 n) : w.toNat % 64 = n % 64 := by
  simpa using field_toNat h

/-- The bits above the low 11 as a number: the field has no bits above it to lose. -/
theorem high_field_eq_zero (w : Word) : w.extractLsb' 11 21 = 0#21 ↔ w.toNat / 2 ^ 11 = 0 := by
  rw [← BitVec.toNat_inj, extract_toNat, BitVec.toNat_ofNat]
  have := w.isLt
  omega

theorem low_field_eq_zero (w : Word) : w.extractLsb' 6 5 = 0#5 ↔ w.toNat / 2 ^ 6 % 32 = 0 := by
  rw [← BitVec.toNat_inj, extract_toNat]
  rfl

theorem decodeRR_outcome {w : Word} (hop : w.toNat % 64 = 1) : DecodeOutcome w.toNat (decodeRR w) := by
  have notReserved : ¬ReservedWord w.toNat := by simp only [ReservedWord]; omega
  have unallocated_iff : UnallocatedWord w.toNat ↔ w.toNat / 2 ^ 6 % 2 ^ 11 ∉ rrFuncs := by
    simp [UnallocatedWord, hop]
  simp only [decodeRR]
  split
  case h_20 =>
    refine .unallocated notReserved (unallocated_iff.mpr fun hmem => ?_)
    rw [← extract_toNat] at hmem
    simp only [rrFuncs, List.mem_cons, List.not_mem_nil, or_false] at hmem
    simp only [imp_false, ← BitVec.toNat_inj, BitVec.toNat_ofNat] at *
    omega
  all_goals
    next hf =>
    refine .accepted _ notReserved (mt unallocated_iff.mp (not_not.mpr ?_))
    rw [field_toNat hf]
    decide

theorem decodeSystem_outcome {w : Word} (hop : w.toNat % 64 = 0) : DecodeOutcome w.toNat (decodeSystem w) := by
  simp only [decodeSystem]
  split
  case h_1 hsub | h_2 hsub =>
    have hsub := field_toNat hsub
    have allocated : ¬UnallocatedWord w.toNat := by simp only [UnallocatedWord]; omega
    split
    · next hres =>
      have hres := (high_field_eq_zero w).mp hres
      exact .accepted _ (by simp only [ReservedWord]; omega) allocated
    · next hres =>
      have hres := mt (high_field_eq_zero w).mpr hres
      exact .reserved (by simp only [ReservedWord]; omega) allocated
  case h_3 hsub =>
    have hsub := field_toNat hsub
    have notReserved : ¬ReservedWord w.toNat := by simp only [ReservedWord]; omega
    split
    case h_3 h0 h1 =>
      simp only [imp_false, ← BitVec.toNat_inj, extract_toNat, BitVec.toNat_ofNat] at h0 h1
      exact .unallocated notReserved (by simp only [UnallocatedWord]; omega)
    all_goals
      next hf =>
      have hf := field_toNat hf
      exact .accepted _ notReserved (by simp only [UnallocatedWord]; omega)
  case h_4 h0 h1 h2 =>
    simp only [imp_false, ← BitVec.toNat_inj, extract_toNat, BitVec.toNat_ofNat] at h0 h1 h2
    exact .unallocated (by simp only [ReservedWord]; omega) (by simp only [UnallocatedWord]; omega)

/-- What the decoder answers to any word, opcode by opcode. -/
theorem decode_outcome (w : Word) : DecodeOutcome w.toNat (decode w) := by
  simp only [decode]
  split
  case h_1 hop => exact decodeSystem_outcome (opcode_toNat hop)
  case h_2 hop => exact decodeRR_outcome (opcode_toNat hop)
  case h_9 hop | h_10 hop =>
    have hop := opcode_toNat hop
    have allocated : ¬UnallocatedWord w.toNat := by simp only [UnallocatedWord]; omega
    split
    · next hlo =>
      have hlo := (low_field_eq_zero w).mp hlo
      exact .accepted _ (by simp only [ReservedWord]; omega) allocated
    · next hlo =>
      have hlo := mt (low_field_eq_zero w).mpr hlo
      exact .reserved (by simp only [ReservedWord]; omega) allocated
  case h_14 hop | h_15 hop =>
    have hop := opcode_toNat hop
    have allocated : ¬UnallocatedWord w.toNat := by simp only [UnallocatedWord]; omega
    split
    · next hres =>
      have hres := (high_field_eq_zero w).mp hres
      exact .accepted _ (by simp only [ReservedWord]; omega) allocated
    · next hres =>
      have hres := mt (high_field_eq_zero w).mpr hres
      exact .reserved (by simp only [ReservedWord]; omega) allocated
  case h_25 => -- the default arm: an opcode of no row
    simp only [imp_false, ← BitVec.toNat_inj, opcodeOf, extract_toNat, BitVec.toNat_ofNat] at *
    have free : w.toNat % 64 = 8 ∨ (16 ≤ w.toNat % 64 ∧ w.toNat % 64 ≤ 31) ∨ 41 ≤ w.toNat % 64 := by omega
    exact .unallocated (by clear * - free; simp only [ReservedWord]; omega) (.inr (.inr (.inr free)))
  all_goals
    next hop =>
    have hop := opcode_toNat hop
    exact .accepted _ (by simp only [ReservedWord]; omega) (by simp only [UnallocatedWord]; omega)

theorem decode_reserved_iff (w : Word) : decode w = .error .reservedField ↔ ReservedWord w.toNat := by
  have h := decode_outcome w
  generalize decode w = d at h ⊢
  cases h with
  | accepted _ notReserved _ => simp [notReserved]
  | reserved reserved _ => simp [reserved]
  | unallocated notReserved _ => simp [notReserved]

theorem decode_unallocated_iff (w : Word) : decode w = .error .unallocated ↔ UnallocatedWord w.toNat := by
  have h := decode_outcome w
  generalize decode w = d at h ⊢
  cases h with
  | accepted _ _ allocated => simp [allocated]
  | reserved _ allocated => simp [allocated]
  | unallocated _ unallocated => simp [unallocated]

/-- A fetched word that does not decode is refused by the name of its decoding error. -/
theorem Machine.runInstruction_of_error {s : Machine.State} {w : Word} {e : DecodeError}
    (hw : Machine.fetch s = .word w) (he : decode w = .error e) :
    Machine.runInstruction s = .refused (Machine.refusalOf e) := by
  simp only [Machine.runInstruction, hw, he]

/-! ### The statements -/

/-- Settles O1: the decoder reads the fields that the encoder wrote; the four bytes of the word are the word. -/
theorem decodeOfEncode : Obligations.DecodeOfEncode :=
  fun i _ => ⟨decode_encode i, (decodeBytes_bytesOfWord _).trans (decode_encode i)⟩

/-- Settles O2: a word is put together again from the fields of the format that its opcode selects. -/
theorem encodeOfDecode : Obligations.EncodeOfDecode :=
  fun _ _ h => encode_of_decode h

/-- Settles O3: the words that decode are the encodings (O1, O2), and these are the words that match a row. -/
theorem decodeFollowsOpcodeRows : Obligations.DecodeFollowsOpcodeRows := by
  refine ⟨fun w => ⟨?_, ?_⟩, fun w r hr q hq hwr hwq => row_unique hr hq hwr hwq⟩
  · rintro ⟨i, hi⟩
    rw [← encode_of_decode hi]
    exact row_of_encoding i
  · rintro ⟨r, hr, hw⟩
    obtain ⟨i, rfl⟩ := encoding_of_row r hr hw
    exact ⟨i, decode_encode i⟩

/-- Settles O4: the two conditions of the decoder's outcome are the stated ones; a step carries the refusal. -/
theorem refusedWords : Obligations.RefusedWords :=
  ⟨fun w => (decode_reserved_iff w).trans (by simp only [ReservedWord, List.mem_cons, List.not_mem_nil, or_false]),
    decode_unallocated_iff, fun _ _ hw =>
    ⟨fun he => Machine.runInstruction_of_error hw he, fun he => Machine.runInstruction_of_error hw he⟩⟩

/-- Settles O5: each word is the encoding of the instruction its rule prints. -/
theorem sampleWords : Obligations.SampleWords :=
  ⟨decode_encode (.add 16 17 18), decode_encode (.subi 16 17 1), decode_encode (.lh 16 2 17),
    decode_encode (.sh 2 16 17), decode_encode (.brz 16 8), decode_encode (.jpl 0x100), decode_encode (.jpr 3),
    decode_encode .reti, decode_encode (.exbw 16 17)⟩

end Sys2Proof
end

section
/-!
Registers, the status register and the two-NOP rule (10_state.md R27 to R41, 70_reset_and_hazards.md R280 to R285): the bits
of GPR1, what its write filter does, when the guard of GPR1 refuses, and what an instruction with destination GPR1 ends in.
-/

namespace Sys2Proof.Machine

/-! ### The bits of GPR1 -/

/-- The field map of GPR1 (10_state.md R31), bit by bit. -/
theorem statusValue_getLsbD (sr : StatusReg) {k : Nat} (hk : k < 32) :
    (statusValue sr).getLsbD k =
      [sr.flags.v, sr.flags.s, sr.flags.z, sr.flags.c, false, false, false, false, sr.eie, sr.iie, false, false, false,
        false, sr.mode.getLsbD 0, sr.mode.getLsbD 1].getD k false := by
  simp only [statusValue, statusWord, flagBits, BitVec.getLsbD_append]
  interval_cases k <;> simp

/-- The bits of GPR1 that no source defines (10_state.md R38). -/
abbrev UndefinedBit (k : Nat) : Prop := 4 ≤ k ∧ k ≤ 7 ∨ 10 ≤ k ∧ k ≤ 13 ∨ 16 ≤ k

theorem statusUndefinedMask_getLsbD : ∀ k < 32, statusUndefinedMask.getLsbD k = decide (UndefinedBit k) := by decide

/-- The mask of the write filter reads exactly the undefined bits. -/
theorem and_statusUndefinedMask_eq_zero (v : Word) :
    v &&& statusUndefinedMask = 0#32 ↔ ∀ k < 32, UndefinedBit k → v.getLsbD k = false := by
  constructor
  · intro h k hk hu
    have hbit := congrArg (BitVec.getLsbD · k) h
    simpa [statusUndefinedMask_getLsbD k hk, hu] using hbit
  · intro h
    refine BitVec.eq_of_getLsbD_eq fun k hk => ?_
    rw [BitVec.getLsbD_and, statusUndefinedMask_getLsbD k hk, BitVec.getLsbD_zero]
    by_cases hu : UndefinedBit k
    · rw [h k hk hu, Bool.false_and]
    · rw [decide_eq_false hu, Bool.and_false]

/-- The bits of GPR1 after EIE, IIE and MODE were taken from `v` (10_state.md R37): bits 8, 9 and 15:14 come from `v`, the
others stay. -/
theorem reg_status_setPermissions (s : State) (v : Word) {k : Nat} (hk : k < 32) :
    ((s.setPermissions v[8] v[9] (v.extractLsb' 14 2)).reg statusReg).getLsbD k =
      if k = 8 ∨ k = 9 ∨ k = 14 ∨ k = 15 then v.getLsbD k else (s.reg statusReg).getLsbD k := by
  rw [State.reg_status, State.reg_status, statusValue_getLsbD _ hk, statusValue_getLsbD _ hk]
  interval_cases k <;> simp

/-- A mode that the write filter lets through is kernel or user (10_state.md R36). -/
theorem writtenMode_legal {v : Word} (h : v[15] = false) : v.extractLsb' 14 2 = 0b00#2 ∨ v.extractLsb' 14 2 = 0b01#2 := by
  have hhigh : (v.extractLsb' 14 2)[1] = false := by simpa using h
  generalize v.extractLsb' 14 2 = m at hhigh
  revert m
  decide

/-! ### The two-NOP rule (70_reset_and_hazards.md R283) -/

/-- The result of an instruction's body is not the refusal of the two-NOP rule: that is the guard's alone. -/
abbrev NotTwoNopRefusal (r : Result) : Prop := r ≠ .refused .statusWithoutTwoNops

theorem finish_notTwoNopRefusal (k : Executed) (rd : RegIdx) (v : Word) (s : State) :
    NotTwoNopRefusal (finish k rd v s) := by
  simp only [finish, writeReg]
  split
  · rcases writeStatus_cases v (s.track k).advance with ⟨_, _, _, hw⟩ | ⟨_, hw⟩ | ⟨_, _, hw⟩ | ⟨_, _, _, hw⟩ <;>
      rw [hw] <;> simp
  · simp

theorem finishLoad_notTwoNopRefusal (rd : RegIdx) (m : BusMode) (a : Word) (v : Option Word) (s : State) :
    NotTwoNopRefusal (finishLoad rd m a v s) := by
  cases v with
  | none => simp [finishLoad]
  | some w => exact finish_notTwoNopRefusal _ _ _ _

theorem finishStore_notTwoNopRefusal (m : BusMode) (a d : Word) (bs : List Byte) (s : State) :
    NotTwoNopRefusal (finishStore m a d bs s) := by
  simp only [finishStore]
  split <;> simp

/-- A guarded instruction is refused by the two-NOP rule exactly when it names GPR1 and the rule is not met. -/
theorem guarded_refused_iff {checked named : List RegIdx} {s : State} {body : Result}
    (hnames : statusReg ∈ checked ↔ statusReg ∈ named) (hbody : NotTwoNopRefusal body) :
    guarded checked s body = .refused .statusWithoutTwoNops ↔ statusReg ∈ named ∧ s.trk.nopRun ≠ 2 := by
  rw [← hnames]
  by_cases hok : NamesOk s checked
  · rw [guarded_ok hok]
    exact ⟨fun h => absurd h hbody, fun h => absurd (hok h.1) h.2⟩
  · obtain ⟨hm, hn⟩ := Classical.not_imp.mp hok
    exact ⟨fun _ => ⟨hm, hn⟩, fun _ => guarded_refused hm hn⟩

theorem mem_rr_operands {r rd rs1 rs2 : RegIdx} : r ∈ [rs1, rs2, rd] ↔ r ∈ [rd, rs1, rs2] := by
  simp only [List.mem_cons, List.not_mem_nil, or_false]
  tauto

theorem mem_ri_operands {r rd rs1 : RegIdx} : r ∈ [rs1, rd] ↔ r ∈ [rd, rs1] := by
  simp only [List.mem_cons, List.not_mem_nil, or_false]
  exact or_comm

/-- Every instruction with register operands is guarded for exactly these; the others answer no such refusal. -/
theorem exec_twoNopRefusal_iff (i : Instr) (s : State) :
    exec i s = .refused .statusWithoutTwoNops ↔ statusReg ∈ i.named ∧ s.trk.nopRun ≠ 2 := by
  cases i
  case nop | reti | jp | jpl => simp [exec, execNop, execReti, execJp, execJpl, jumpAndLink, Instr.named]
  case trap off =>
    simp only [exec, execTrap, Instr.named]
    split
    · split <;> simp
    · simp
  case brz | brnz | jpr | jprl => exact guarded_refused_iff Iff.rfl (by simp [branchIf, jumpAndLink])
  case sb | sh | sw => exact guarded_refused_iff Iff.rfl (finishStore_notTwoNopRefusal _ _ _ _ _)
  case lb | lh | lw => exact guarded_refused_iff mem_ri_operands (finishLoad_notTwoNopRefusal _ _ _ _ _)
  case addi | subi | andi | ori | xori | llsi | lrsi | arsi | lsoi | exbw | exhw =>
    exact guarded_refused_iff mem_ri_operands (finish_notTwoNopRefusal _ _ _ _)
  all_goals exact guarded_refused_iff mem_rr_operands (finish_notTwoNopRefusal _ _ _ _)

/-! ### Instructions with destination GPR1 -/

/-- After two NOPs an instruction with a destination ends in `finish`, on a state with the same EIE, IIE and MODE, or it is
a load of a byte the platform does not back. -/
inductive DestOutcome (i : Instr) (s : State) (rd : RegIdx) : Prop
  | finishes (k : Executed) (v : Word) (b : State) (answer : exec i s = finish k rd v b)
      (sr : b.sr = { s.sr with flags := b.sr.flags })
  | unbacked (load : i.loadDest ≠ none) (answer : exec i s = .fault .dataNotBacked)

theorem destOutcome_of_load {i : Instr} {s : State} {rd : RegIdx} {names : List RegIdx} {m : BusMode} {a : Word}
    {o : Option Word} (hexec : exec i s = guarded names s (finishLoad rd m a o s)) (hnop : s.trk.nopRun = 2)
    (hload : i.loadDest ≠ none) : DestOutcome i s rd := by
  rw [guarded_ok fun _ => hnop] at hexec
  cases o with
  | none => exact .unbacked hload hexec
  | some w => exact .finishes _ _ _ hexec rfl

theorem exec_destOutcome {i : Instr} {s : State} {rd : RegIdx} (hd : i.destOperand = some rd)
    (hnop : s.trk.nopRun = 2) : DestOutcome i s rd := by
  have hguard {names : List RegIdx} {body : Result} : guarded names s body = body := guarded_ok fun _ => hnop
  cases i
  case nop | reti | jp | jpl | trap | brz | brnz | jpr | jprl | sb | sh | sw => cases hd
  case lb | lh | lw => cases hd; exact destOutcome_of_load rfl hnop (by simp [Instr.loadDest])
  all_goals cases hd; exact .finishes _ _ _ hguard rfl

/-- What a write of GPR1 at the end of an instruction answers, by mode (10_state.md R36 to R38). -/
theorem finish_status_outcome (k : Executed) (v : Word) (s : State) :
    (s.sr.mode = 0b00#2 →
      (∃ t, finish k statusReg v s = .next t ∧ (t.sr.mode = 0b00#2 ∨ t.sr.mode = 0b01#2)) ∨
      finish k statusReg v s = .refused .statusUndefinedBits ∨ finish k statusReg v s = .refused .statusUndefinedMode) ∧
    (s.sr.mode ≠ 0b00#2 →
      ∃ t, finish k statusReg v s = .next t ∧ t.sr.eie = s.sr.eie ∧ t.sr.iie = s.sr.iie ∧ t.sr.mode = s.sr.mode) := by
  rcases writeStatus_cases v (s.track k).advance with
    ⟨hm, _, h15, hw⟩ | ⟨hm, hw⟩ | ⟨hm, _, hw⟩ | ⟨hm, _, _, hw⟩
  · exact ⟨fun _ => .inl ⟨_, hw, writtenMode_legal h15⟩, fun hu => absurd hm hu⟩
  · exact ⟨fun hk => absurd hk hm, fun _ => ⟨_, hw, rfl, rfl, rfl⟩⟩
  · exact ⟨fun _ => .inr (.inl hw), fun hu => absurd hm hu⟩
  · exact ⟨fun _ => .inr (.inr hw), fun hu => absurd hm hu⟩

/-! ### The trackers -/

/-- The trackers after an executed instruction, field by field (10_state.md R41). -/
theorem trackers_after_executed (t : Trackers) (k : Executed) (sr : StatusReg) :
    (t.after k sr).loadShadow = loadShadowAfter k ∧ (t.after k sr).nopRun = nopRunAfter k t.nopRun ∧
    (t.after k sr).sinceFlagWrite = sinceFlagWriteAfter k ∧
    (t.after k sr).sinceSrWrite = (if executedDest k = some statusReg then .zero else sinceSrWriteNext t.sinceSrWrite) ∧
    (t.after k sr).srOld =
      (if executedDest k = some statusReg then { eie := sr.eie, iie := sr.iie, mode := sr.mode } else t.srOld) := by
  simp only [Trackers.after]
  split <;> exact ⟨rfl, rfl, rfl, rfl, rfl⟩

/-- What an instruction `i` is to the trackers when it executes as `k` (10_state.md R41). -/
structure ExecutesAs (i : Instr) (k : Executed) : Prop where
  shadow : loadShadowAfter k = i.loadDest.filter (fun r => r ≠ zeroReg)
  nop : k = .nop ↔ i = .nop
  dest : executedDest k = i.destOperand
  flagWrite : sinceFlagWriteAfter k = (if i.writesFlags then .zero else .far)

theorem ExecutesAs.of_plain {i : Instr} (hn : i ≠ .nop) (hd : i.destOperand = none) (hl : i.loadDest = none)
    (hf : i.writesFlags = false) : ExecutesAs i .plain where
  shadow := by rw [hl]; rfl
  nop := by simp [hn]
  dest := by rw [hd]; rfl
  flagWrite := by rw [hf]; rfl

/-- Every instruction leaves the trackers of what it executes as; TRAP and RETI also note the hardware's change. -/
theorem exec_trackers {i : Instr} {s t : State} (h : exec i s = .next t) :
    ∃ k d, ExecutesAs i k ∧ t.trk = { s.trk.after k s.sr with srDirect := d } := by
  cases exec_next h with
  | finish k rd v b shape noStore noNop _ _ =>
    refine ⟨k, (s.trk.after k s.sr).srDirect, ⟨shape.shadow, by simp [shape.notNop, noNop],
      shape.executed.trans shape.dest.symm, shape.flagWrite⟩, ?_⟩
    rw [(finish_next shape.answer).2.trackers, shape.trk, shape.sr]
    rfl
  | store _ _ _ _ _ _ _ noDest noLoad noFlags noNop => exact ⟨.plain, _, .of_plain noNop noDest noLoad noFlags, rfl⟩
  | jump _ noDest noLoad noFlags _ noNop => exact ⟨.plain, _, .of_plain noNop noDest noLoad noFlags, rfl⟩
  | link _ _ noDest noLoad noFlags _ noNop => exact ⟨.plain, _, .of_plain noNop noDest noLoad noFlags, rfl⟩
  | nop => exact ⟨.nop, _, ⟨rfl, by simp, rfl, rfl⟩, rfl⟩
  | reti => exact ⟨.plain, true, .of_plain (by simp) rfl rfl rfl, rfl⟩
  | trap => exact ⟨.plain, true, .of_plain (by simp) rfl rfl rfl, rfl⟩

/-- `nop_run` counts NOPs up to 2 and starts again at every other instruction (10_state.md R41). -/
theorem nopRunAfter_val (k : Executed) (n : Fin 3) :
    (nopRunAfter k n).val = if k = .nop then min (n.val + 1) 2 else 0 := by
  cases k <;> simp only [nopRunAfter, reduceCtorEq, if_false, if_true, Fin.val_zero]
  revert n
  decide

/-! ### The statements -/

/-- Settles O6: GPR0 has no storage; every other register but GPR1 lies in the register file. -/
theorem registerWriteFunction : Obligations.RegisterWriteFunction := by
  intro v s
  refine ⟨rfl, fun i h0 h1 => ⟨s.setGpr i v, by rw [writeReg, if_neg h1], State.reg_setGpr_same s v h0 h1,
    fun j hj => State.reg_setGpr_other s v hj, rfl⟩⟩

/-- Settles O7: the mask of the filter reads the undefined bits, so the four cases of a write of GPR1 are the stated
ones. -/
theorem statusWriteFilter : Obligations.StatusWriteFilter := by
  intro v s
  rcases writeStatus_cases v s with ⟨hm, hu, h15, hw⟩ | ⟨hm, hw⟩ | ⟨hm, hu, hw⟩ | ⟨hm, hu, h15, hw⟩
  · have defined := (and_statusUndefinedMask_eq_zero v).mp hu
    refine ⟨fun h => absurd hm h, fun _ => ⟨?_, fun _ => ⟨fun h => ?_, fun _ => ⟨_, hw, rfl, ?_⟩⟩⟩⟩
    · rintro ⟨k, hk, hund, hbit⟩
      simp [defined k hk hund] at hbit
    · simp [h15] at h
    · exact fun k hk => reg_status_setPermissions s v hk
  · exact ⟨fun _ => hw, fun h => absurd h hm⟩
  · exact ⟨fun h => absurd hm h, fun _ => ⟨fun _ => hw, fun h =>
      absurd ((and_statusUndefinedMask_eq_zero v).mpr h) hu⟩⟩
  · have defined := (and_statusUndefinedMask_eq_zero v).mp hu
    refine ⟨fun h => absurd hm h, fun _ => ⟨?_, fun _ => ⟨fun _ => hw, fun h => ?_⟩⟩⟩
    · rintro ⟨k, hk, hund, hbit⟩
      simp [defined k hk hund] at hbit
    · simp [h15] at h

/-- Settles O8: GPR1 read as a register is its value, bit by bit. -/
theorem statusFieldMap : Obligations.StatusFieldMap :=
  fun s _ hk => statusValue_getLsbD s.sr hk

/-- Settles O9: the draw in the slot, and the register itself outside every window. -/
theorem registerReadFunction : Obligations.RegisterReadFunction := by
  refine fun s p => ⟨rfl, fun r h0 hl => ?_, fun r h1 hl => readReg_clear p hl fun h => absurd h h1,
    fun hl hs hf => readReg_clear p hl fun _ => ⟨hs, hf⟩⟩
  rw [readReg, if_neg h0, if_pos hl]

/-- Settles O10: the guard of every instruction asks for GPR1 among its register operands. -/
theorem twoNopRule : Obligations.TwoNopRule :=
  exec_twoNopRefusal_iff

/-- Settles O11: after two NOPs the instruction comes to the write of GPR1, unless a load stops before it. -/
theorem statusDestinationOutcomes : Obligations.StatusDestinationOutcomes := by
  intro i s hd hnop
  cases exec_destOutcome hd hnop with
  | unbacked load answer =>
    exact ⟨fun _ => .inr (.inr (.inr ⟨load, answer⟩)), fun _ => .inr ⟨load, answer⟩⟩
  | finishes k v b answer sr =>
    obtain ⟨kernel, user⟩ := finish_status_outcome k v b
    rw [← answer, sr] at kernel user
    refine ⟨fun hm => ?_, fun hm => .inl (user hm)⟩
    rcases kernel hm with h | h | h
    · exact .inl h
    · exact .inr (.inl h)
    · exact .inr (.inr (.inl h))

/-- Settles O12: what an instruction is to the trackers is read off its operands. -/
theorem trackersAfterInstruction : Obligations.TrackersAfterInstruction := by
  intro i s t h
  obtain ⟨k, d, as, ht⟩ := exec_trackers h
  obtain ⟨shadow, nopRun, flagWrite, srWrite, srOld⟩ := trackers_after_executed s.trk k s.sr
  rw [ht]
  refine ⟨shadow.trans as.shadow, ?_, ?_, flagWrite.trans as.flagWrite, ?_⟩
  · simp only [nopRun, nopRunAfter_val, as.nop]
  · rw [← as.dest]
    exact srWrite
  · rw [← as.dest]
    exact srOld

/-- Settles O13: a NOP run of two has closed the slot and both windows. -/
theorem noWindowAfterTwoNops : Obligations.NoWindowAfterTwoNops := by
  intro s p r inv hnop
  obtain ⟨shadow, flagWrite, _⟩ := inv.afterNop (by rw [hnop]; decide)
  exact readReg_clear p (by rw [shadow]; simp) fun _ => ⟨inv.afterTwo hnop, flagWrite⟩

end Sys2Proof.Machine
end

section
/-!
Laws of every instruction and of every step: the frame of an instruction, the invariant of a run, the parameters that no
step changes, and the ways out of user mode (10_state.md R21 to R44, 60_exceptions.md R256, R266). Each is a case analysis
of the shapes of an instruction and of the three ways a step can go.
-/

namespace Sys2Proof.Machine

/-! ### The frame of an instruction -/

/-- The end of an instruction with a destination writes no memory. -/
theorem finish_dmem {k : Executed} {rd : RegIdx} {v : Word} {s t : State} (h : finish k rd v s = .next t) :
    t.dmem = s.dmem := by
  rcases writeReg_next h with ⟨_, rfl⟩ | ⟨_, _, rfl⟩ | ⟨_, _, _, _, rfl⟩ <;> rfl

theorem Untouched.trans {s t u : State} (h : Untouched s t) (h' : Untouched t u) : Untouched s u :=
  ⟨h'.imem.trans h.imem, h'.map.trans h.map, h'.pins.trans h.pins, h'.extWait.trans h.extWait,
    h'.extcatch.trans h.extcatch, h'.tick.trans h.tick⟩

/-- No instruction changes the parameters and inputs of the step. -/
theorem exec_untouched {i : Instr} {s t : State} (h : exec i s = .next t) : Untouched s t := by
  cases exec_next h with
  | finish _ _ _ _ shape => exact shape.untouched.trans (finish_next shape.answer).2.untouched
  | store | jump | link | nop | reti | trap => exact ⟨rfl, rfl, rfl, rfl, rfl, rfl⟩

/-- A register that is not GPR1 is changed only as the destination, as the GPR2 of TRAP or as the GPR3 of a link. -/
theorem exec_registers {i : Instr} {s t : State} (h : exec i s = .next t) {j : RegIdx} (h1 : j ≠ statusReg)
    (hd : i.destOperand ≠ some j) (htrap : j = returnReg → ∀ off, i ≠ .trap off)
    (hlink : j = linkReg → (∀ off, i ≠ .jpl off) ∧ ∀ rs1, i ≠ .jprl rs1) : t.reg j = s.reg j := by
  cases exec_next h with
  | finish k rd v b shape =>
    have hj : j ≠ rd := fun e => hd (e ▸ shape.dest)
    exact ((finish_next shape.answer).2.others j hj h1).trans (State.reg_congr_gpr shape.gpr h1)
  | store | jump | nop => exact State.reg_congr_gpr rfl h1
  | reti => exact State.reg_congr_gpr (returnFromInterrupt_gpr _ _) h1
  | link target which =>
    have hj : j ≠ linkReg := by
      intro e
      obtain ⟨hjpl, hjprl⟩ := hlink e
      rcases which with ⟨o, rfl⟩ | ⟨r, rfl⟩
      · exact hjpl o rfl
      · exact hjprl r rfl
    exact (link_effect s target).others j hj
  | trap =>
    have hj : j ≠ returnReg := fun e => htrap e _ rfl
    exact (enterInterrupt_effect _ (s.track .plain)).others j hj h1

theorem exec_flags {i : Instr} {s t : State} (h : exec i s = .next t) (hf : i.writesFlags = false) :
    t.sr.flags = s.sr.flags := by
  cases exec_next h with
  | finish k rd v b shape => exact (finish_next shape.answer).2.flags.trans (shape.flags hf)
  | store | jump | link | nop | reti | trap => rfl

/-- EIE, IIE and MODE are changed only by a kernel-mode write of GPR1, RETI and TRAP. -/
theorem exec_permissions {i : Instr} {s t : State} (h : exec i s = .next t)
    (hd : i.destOperand ≠ some statusReg ∨ s.sr.mode ≠ 0b00#2) (hreti : i ≠ .reti) (htrap : ∀ off, i ≠ .trap off) :
    t.sr.eie = s.sr.eie ∧ t.sr.iie = s.sr.iie ∧ t.sr.mode = s.sr.mode := by
  cases exec_next h with
  | finish k rd v b shape =>
    have hp := (finish_next shape.answer).2.permissions
    rw [shape.sr] at hp
    refine hp (hd.imp_left fun hne e => hne ?_)
    rw [shape.dest, e]
  | store | jump | link | nop => exact ⟨rfl, rfl, rfl⟩
  | reti => exact absurd rfl hreti
  | trap => exact absurd rfl (htrap _)

theorem exec_dmem {i : Instr} {s t : State} (h : exec i s = .next t) (hs : i.stores = false) : t.dmem = s.dmem := by
  cases exec_next h with
  | finish k rd v b shape => exact (finish_dmem shape.answer).trans shape.dmem
  | store _ _ _ _ _ _ stores => rw [stores] at hs; cases hs
  | jump | link | nop | reti | trap => rfl

theorem exec_bus {i : Instr} {s t : State} (h : exec i s = .next t) (hs : i.stores = false) (hl : i.loadDest = none) :
    t.bus = s.bus := by
  cases exec_next h with
  | finish k rd v b shape => exact (finish_next shape.answer).2.busRecord.trans (shape.bus hl)
  | store _ _ _ _ _ _ stores => rw [stores] at hs; cases hs
  | jump | link | nop | reti | trap => rfl

/-! ### The invariant of a run -/

/-- The trackers of every executed instruction agree with the two-NOP rule: only NOPs extend a NOP run, and they close the
slot and the windows. -/
theorem HazardInv.after {t : Trackers} (inv : HazardInv t) (k : Executed) (sr : StatusReg) (d : Bool) :
    HazardInv { t.after k sr with srDirect := d } := by
  obtain ⟨shadow, nopRun, flagWrite, srWrite, _⟩ := trackers_after_executed t k sr
  have notZeroReg : loadShadowAfter k ≠ some zeroReg := by
    cases k with
    | load rd => by_cases h : rd = zeroReg <;> simp [loadShadowAfter, h]
    | nop | flagged | dest | plain => simp [loadShadowAfter]
  by_cases hk : k = .nop
  · subst hk
    have srWrite : (t.after .nop sr).sinceSrWrite = sinceSrWriteNext t.sinceSrWrite := srWrite
    refine ⟨fun _ => ⟨shadow, flagWrite, ?_⟩, fun h2 => ?_, by rw [shadow]; exact notZeroReg⟩
    · show (t.after .nop sr).sinceSrWrite ≠ .zero
      rw [srWrite]
      cases t.sinceSrWrite <;> simp [sinceSrWriteNext]
    · have hprev : t.nopRun ≠ 0 := by
        intro h0
        have : nopRunAfter .nop t.nopRun = 2 := nopRun.symm.trans h2
        rw [h0] at this
        exact absurd this (by decide)
      obtain ⟨_, _, notJustWritten⟩ := inv.afterNop hprev
      show (t.after .nop sr).sinceSrWrite = .far
      rw [srWrite]
      cases hw : t.sinceSrWrite with
      | zero => exact absurd hw notJustWritten
      | one | far => rfl
  · have hzero : (t.after k sr).nopRun = 0 := by
      rw [nopRun]
      apply Fin.ext
      rw [nopRunAfter_val, if_neg hk]
      rfl
    exact ⟨fun h => absurd hzero h, fun h => absurd (hzero.symm.trans h) (by decide), by rw [shadow]; exact notZeroReg⟩

theorem exec_hazards {i : Instr} {s t : State} (h : exec i s = .next t) (inv : HazardInv s.trk) : HazardInv t.trk := by
  obtain ⟨k, d, _, ht⟩ := exec_trackers h
  rw [ht]
  exact inv.after k s.sr d

/-- Every mode an instruction leaves is kernel or user. -/
theorem exec_legalMode {i : Instr} {s t : State} (h : exec i s = .next t)
    (hm : s.sr.mode = 0b00#2 ∨ s.sr.mode = 0b01#2) : t.sr.mode = 0b00#2 ∨ t.sr.mode = 0b01#2 := by
  cases exec_next h with
  | finish k rd v b shape =>
    have hb : b.sr.mode = s.sr.mode := by rw [shape.sr]
    rcases writeReg_next shape.answer with ⟨_, rfl⟩ | ⟨_, _, rfl⟩ | ⟨_, _, _, h15, rfl⟩
    · exact hb ▸ hm
    · exact hb ▸ hm
    · exact writtenMode_legal h15
  | store | jump | link | nop => exact hm
  | reti => exact .inr rfl
  | trap => exact .inl rfl

theorem exec_dmem_wf {i : Instr} {s t : State} (h : exec i s = .next t) (hwf : s.dmem.wf = true) :
    t.dmem.wf = true := by
  cases exec_next h with
  | finish k rd v b shape => rw [finish_dmem shape.answer, shape.dmem]; exact hwf
  | store m a d bs _ inSpace => exact wf_storeCells s.map hwf inSpace
  | jump | link | nop | reti | trap => exact hwf

theorem exec_runInv {i : Instr} {s t : State} (h : exec i s = .next t) (inv : RunInv s) : RunInv t where
  mode := exec_legalMode h inv.mode
  dmem := exec_dmem_wf h inv.dmem
  imem := by rw [(exec_untouched h).imem]; exact inv.imem
  hazards := exec_hazards h inv.hazards

theorem hazardInv_cleared : HazardInv Trackers.cleared :=
  ⟨fun h => absurd rfl h, fun _ => rfl, by simp [Trackers.cleared]⟩

/-- The external entry starts a new NOP run and keeps the slot (10_state.md R41, D26). -/
theorem raiseExtInt_hazards {s : State} (inv : HazardInv s.trk) : HazardInv (raiseExtInt s).trk :=
  ⟨fun h => absurd rfl h, fun h => absurd (show (0 : Fin 3) = 2 from h) (by decide), inv.shadow⟩

/-! ### The steps -/

/-- Everything a step can do when it answers a state, with the instruction that it fetched. -/
theorem step_next_fetched {s t : State} (h : step s = .next t) :
    (s.pinsNow.reset = true ∧ t = s.openStep.coreReset) ∨
    (s.pinsNow.reset = false ∧ t = raiseExtInt { s.openStep with extWait := none }) ∨
    ∃ wait w i, fetch s = .word w ∧ decode w = .ok i ∧ exec i { s.openStep with extWait := wait } = .next t := by
  simp only [step] at h
  split at h
  · next hr => cases h; exact .inl ⟨hr, rfl⟩
  · next hr =>
    rcases atBoundary_cases s.pinsNow s.openStep with ⟨_, hb⟩ | ⟨_, _, hb⟩ | ⟨_, n, _, hb⟩ <;> simp only [hb] at h
    · exact .inr (.inr ⟨none, runInstruction_next h⟩)
    · cases h; exact .inr (.inl ⟨by simpa using hr, rfl⟩)
    · exact .inr (.inr ⟨some n, runInstruction_next h⟩)

/-! ### User mode -/

/-- What an instruction executed in user mode does to EIE, IIE and MODE: RETI and a taken TRAP set the fields as they
always do, every other instruction keeps them, since a write of GPR1 has no effect there (10_state.md R37). -/
inductive UserOutcome (s t : State) : Instr → Prop
  | kept (i : Instr) (eie : t.sr.eie = s.sr.eie) (iie : t.sr.iie = s.sr.iie) (mode : t.sr.mode = 0b01#2) :
      UserOutcome s t i
  | returned (mode : t.sr.mode = 0b01#2) : UserOutcome s t .reti
  | trapped (off : BitVec 26) (state : t = raiseTrap off (s.track .plain)) : UserOutcome s t (.trap off)

theorem exec_userOutcome {i : Instr} {s t : State} (hm : s.sr.mode = 0b01#2) (h : exec i s = .next t) :
    UserOutcome s t i := by
  cases exec_next h with
  | finish _ _ _ _ _ _ _ noReti noTrap =>
    obtain ⟨eie, iie, mode⟩ := exec_permissions h (.inr (by rw [hm]; decide)) noReti noTrap
    exact .kept i eie iie (mode.trans hm)
  | store | jump | link | nop => exact .kept _ rfl rfl hm
  | reti => exact .returned rfl
  | trap => exact .trapped _ rfl

/-! ### The statements -/

/-- Settles O60: the frame of an instruction, part by part. -/
theorem instructionFrame : Obligations.InstructionFrame :=
  fun _ _ _ h => ⟨fun _ h1 hd htrap hlink => exec_registers h h1 hd htrap hlink, exec_flags h,
    fun hd => exec_permissions h (.inl hd), exec_dmem h, exec_bus h, exec_untouched h⟩

/-- Settles O55: a reset sets the invariant up, an entry and an instruction keep it. -/
theorem runInvariantKept : Obligations.RunInvariantKept := by
  intro s t inv h
  rcases step_next_fetched h with ⟨_, rfl⟩ | ⟨_, rfl⟩ | ⟨_, _, _, _, _, hx⟩
  · exact ⟨.inl rfl, inv.dmem, inv.imem, hazardInv_cleared⟩
  · exact ⟨.inl rfl, inv.dmem, inv.imem, raiseExtInt_hazards inv.hazards⟩
  · exact exec_runInv hx ⟨inv.mode, inv.dmem, inv.imem, inv.hazards⟩

/-- Settles O56: kernel mode, empty memories, cleared trackers. -/
theorem runInvariantAtReset : Obligations.RunInvariantAtReset :=
  ⟨.inl rfl, reset_dmem_wf, reset_imem_wf, hazardInv_cleared⟩

/-- Settles O57: the sample is taken before the boundary, and nothing after it touches the parameters. -/
theorem parametersAreConstant : Obligations.ParametersAreConstant := by
  intro s t h
  rcases step_next_fetched h with ⟨_, rfl⟩ | ⟨_, rfl⟩ | ⟨_, _, _, _, _, hx⟩
  · exact ⟨rfl, rfl, rfl⟩
  · exact ⟨rfl, rfl, rfl⟩
  · exact ⟨(exec_untouched hx).imem, (exec_untouched hx).map, (exec_untouched hx).pins⟩

/-- Settles O58: in user mode no write of GPR1 takes effect, so of the instructions only TRAP and RETI change EIE, IIE and
MODE; a reset and an external entry clear them. -/
theorem userModeCannotRaisePrivilege : Obligations.UserModeCannotRaisePrivilege := by
  intro s t hm h
  rcases step_next_fetched h with ⟨hr, rfl⟩ | ⟨_, rfl⟩ | ⟨wait, w, i, hw, hi, hx⟩
  · exact ⟨.inr ⟨rfl, .inl ⟨hr, rfl⟩⟩, by rintro (⟨hc, _⟩ | ⟨hc, _⟩) <;> cases hc⟩
  · exact ⟨.inr ⟨rfl, .inr (.inl ⟨rfl, rfl⟩)⟩, by rintro (⟨hc, _⟩ | ⟨hc, _⟩) <;> cases hc⟩
  · cases exec_userOutcome (s := { s.openStep with extWait := wait }) hm hx with
    | kept _ eie iie mode =>
      refine ⟨.inl mode, ?_⟩
      rintro (⟨hset, hclear⟩ | ⟨hset, hclear⟩)
      · exact absurd (hset.symm.trans (eie.trans hclear)) (by decide)
      · exact absurd (hset.symm.trans (iie.trans hclear)) (by decide)
    | returned mode => exact ⟨.inl mode, fun _ => ⟨w, hw, hi⟩⟩
    | trapped off state =>
      subst state
      exact ⟨.inr ⟨rfl, .inr (.inr ⟨w, off, hw, hi, (enterInterrupt_effect _ _).returnAddress, rfl⟩)⟩,
        by rintro (⟨hc, _⟩ | ⟨hc, _⟩) <;> cases hc⟩

end Sys2Proof.Machine
end

section
/-!
The flags (10_state.md R32): what an instruction does commutes with a change of the flags before it, unless it reads GPR1.
Each operation that ends an instruction commutes; so does every read of another register.
-/

namespace Sys2Proof.Machine

/-- The result with `g` applied to the next state, if there is one. -/
def mapNext (g : State → State) : Result → Result
  | .next t => .next (g t)
  | .fault e => .fault e
  | .refused r => .refused r

theorem mapNext_id (r : Result) : mapNext (fun t => t) r = r := by
  cases r <;> rfl

/-! ### The operations commute with a change of the flags -/

/-- Only GPR1 reads the flags. -/
theorem readReg_setFlags (s : State) (f : AluFlags) (p : ReadPort) {r : RegIdx} (h : r ≠ statusReg) :
    readReg (s.setFlags f) p r = readReg s p r := by
  simp only [readReg, State.setFlags_trk, State.setFlags_tick, if_neg h]
  rw [State.reg_congr_gpr (s := s) (State.setFlags_gpr s f) h]

/-- The guard of GPR1 sees the trackers alone. -/
theorem guarded_setFlags (names : List RegIdx) (s : State) (f : AluFlags) (g : State → State) (body : Result) :
    guarded names (s.setFlags f) (mapNext g body) = mapNext g (guarded names s body) := by
  by_cases hok : NamesOk s names
  · rw [guarded_ok hok, guarded_ok (s := s.setFlags f) hok]
  · obtain ⟨hm, hn⟩ := Classical.not_imp.mp hok
    rw [guarded_refused hm hn, guarded_refused (s := s.setFlags f) hm hn]
    rfl

theorem setPermissions_setFlags (s : State) (f : AluFlags) (e i : Bool) (m : BitVec 2) :
    (s.setFlags f).setPermissions e i m = (s.setPermissions e i m).setFlags f := rfl

/-- A register write never reads the flags, nor does the write filter of GPR1 write them. -/
theorem writeReg_setFlags (i : RegIdx) (v : Word) (s : State) (f : AluFlags) :
    writeReg i v (s.setFlags f) = mapNext (State.setFlags · f) (writeReg i v s) := by
  simp only [writeReg]
  split
  · rcases writeStatus_cases v s with ⟨hm, hu, h15, _⟩ | ⟨hm, _⟩ | ⟨hm, hu, _⟩ | ⟨hm, hu, h15, _⟩ <;>
      simp [writeStatus, mapNext, setPermissions_setFlags, *]
  · rfl

theorem finish_setFlags (k : Executed) (rd : RegIdx) (v : Word) (s : State) (f : AluFlags) :
    finish k rd v (s.setFlags f) = mapNext (State.setFlags · f) (finish k rd v s) := by
  rw [finish, finish, track_setFlags]
  exact writeReg_setFlags rd v (s.track k).advance f

theorem finishLoad_setFlags (rd : RegIdx) (m : BusMode) (a : Word) (v : Option Word) (s : State) (f : AluFlags) :
    finishLoad rd m a v (s.setFlags f) = mapNext (State.setFlags · f) (finishLoad rd m a v s) := by
  cases v with
  | none => rfl
  | some w => exact finish_setFlags (.load rd) rd w (s.withRead m a) f

theorem finishStore_setFlags (m : BusMode) (a d : Word) (bs : List Byte) (s : State) (f : AluFlags) :
    finishStore m a d bs (s.setFlags f) = mapNext (State.setFlags · f) (finishStore m a d bs s) := by
  have backed : dataBacked (s.setFlags f) a.toNat bs.length = dataBacked s a.toNat bs.length := by
    rw [Bool.eq_iff_iff, dataBacked_iff, dataBacked_iff, State.setFlags_map]
  simp only [finishStore, memWrite, backed]
  cases dataBacked s a.toNat bs.length <;> rfl

/-! ### The forms of an instruction -/

/-- An instruction under the guard, whose body answers the same on other flags up to `g`. -/
theorem exec_setFlags_of_body {i : Instr} {s : State} {f : AluFlags} {names : List RegIdx} {body : State → Result}
    {g : State → State} (hexec : ∀ u, exec i u = guarded names u (body u))
    (hbody : body (s.setFlags f) = mapNext g (body s)) : exec i (s.setFlags f) = mapNext g (exec i s) := by
  rw [hexec, hexec, hbody, guarded_setFlags]

/-- What an instruction keeps of other flags: nothing if it writes them, else all. -/
abbrev keepFlags (i : Instr) (f : AluFlags) (t : State) : State := if i.writesFlags then t else t.setFlags f

/-- An instruction none of whose source operands is GPR1 does the same whatever the flags are. -/
theorem exec_setFlags {i : Instr} (s : State) (f : AluFlags) (h : statusReg ∉ i.sources) :
    exec i (s.setFlags f) = mapNext (keepFlags i f) (exec i s) := by
  have read (p : ReadPort) {r : RegIdx} (hr : r ∈ i.sources) : readReg (s.setFlags f) p r = readReg s p r :=
    readReg_setFlags s f p fun e => h (e ▸ hr)
  have source {rs1 rs2 r : RegIdx} (hr : r = rs1 ∨ r = rs2) : r ∈ [rs1, rs2] := by simpa using hr
  cases i
  case nop | jp | jpl => rfl
  case reti =>
    have hret : readReg (s.setFlags f) .first returnReg = readReg s .first returnReg :=
      readReg_setFlags s f .first (by decide)
    simp only [exec, execReti, hret]
    rfl
  case trap off =>
    have same : iieTested (s.setFlags f) = iieTested s := rfl
    simp only [exec, execTrap, same]
    split
    · split <;> rfl
    · rfl
  case add | sub =>
    refine exec_setFlags_of_body (fun _ => rfl) ?_
    rw [read _ (source (.inl rfl)), read _ (source (.inr rfl))]
    exact (mapNext_id _).symm
  case addi | subi =>
    refine exec_setFlags_of_body (fun _ => rfl) ?_
    rw [read _ List.mem_cons_self]
    exact (mapNext_id _).symm
  case sb | sh | sw =>
    refine exec_setFlags_of_body (fun _ => rfl) ?_
    simp only [storeAddress]
    rw [read _ (source (.inl rfl)), read _ (source (.inr rfl))]
    exact finishStore_setFlags _ _ _ _ _ _
  case lb | lh | lw =>
    refine exec_setFlags_of_body (fun _ => rfl) ?_
    simp only [loadAddress]
    rw [read _ List.mem_cons_self]
    exact finishLoad_setFlags _ _ _ _ _ _
  case brz | brnz | jpr | jprl =>
    refine exec_setFlags_of_body (fun _ => rfl) ?_
    rw [read _ List.mem_cons_self]
    rfl
  case andi | ori | xori | llsi | lrsi | arsi | lsoi | exbw | exhw =>
    refine exec_setFlags_of_body (fun _ => rfl) ?_
    rw [read _ List.mem_cons_self]
    exact finish_setFlags _ _ _ _ _
  all_goals
    refine exec_setFlags_of_body (fun _ => rfl) ?_
    rw [read _ (source (.inl rfl)), read _ (source (.inr rfl))]
    exact finish_setFlags _ _ _ _ _

/-! ### The statement -/

/-- Settles O59: the stated answer is the result with the instruction's own treatment of the flags. -/
theorem flagsDoNotMatter : Obligations.FlagsDoNotMatter := by
  intro i s f h
  rw [exec_setFlags s f h]
  cases exec i s <;> rfl

end Sys2Proof.Machine
end

section
/-!
The step (60_exceptions.md R240 to R266, 70_reset_and_hazards.md R270 to R272): the boundary of a standing request, its
bounded wait, the fetch, reset, and the instructions NOP, RETI, TRAP, JPR and JPRL.
-/

namespace Sys2Proof.Machine

/-! ### The boundary -/

/-- The boundary that takes a standing request whose wait is over. -/
theorem step_of_entry {s : State} (hr : s.pinsNow.reset = false) (hs : RequestStands s)
    (hw : extWaitNow s.openStep = 0) : step s = .next (raiseExtInt { s.openStep with extWait := none }) := by
  simp [step, hr, atBoundary, (extRequested_iff s).mpr hs, hw]

/-- The boundary that runs an instruction. -/
theorem step_of_runsInstruction {s : State} {w : Option Nat} (h : RunsInstruction s w) :
    step s = runInstruction { s.openStep with extWait := w } := by
  obtain ⟨hr, ⟨hs, rfl⟩ | ⟨hs, n, hn, rfl⟩⟩ := h
  · have hs : extRequested s.pinsNow s.openStep = false := by
      simpa using mt (extRequested_iff s).mp hs
    simp [step, hr, atBoundary, hs]
  · simp [step, hr, atBoundary, (extRequested_iff s).mpr hs, hn]

/-- An instruction step leaves the wait as the boundary counted it, and emits no event. -/
theorem step_of_runsInstruction_next {s t : State} {w : Option Nat} (h : RunsInstruction s w)
    (ht : step s = .next t) : t.extWait = w ∧ t.extcatch = false := by
  rw [step_of_runsInstruction h] at ht
  obtain ⟨_, _, _, _, hx⟩ := runInstruction_next ht
  exact ⟨(exec_untouched hx).extWait, (exec_untouched hx).extcatch⟩

/-- What the external entry does to the state it is taken in. -/
theorem raiseExtInt_effect (s : State) (w : Option Nat) :
    EntryEffect extVector s (raiseExtInt { s with extWait := w }) :=
  have e := enterInterrupt_effect extVector s
  ⟨rfl, e.returnAddress, e.others, e.prohibited, e.kernel, rfl, fun _ => rfl, rfl, rfl, rfl, rfl, rfl⟩

/-- Along a run in which a request stands at every boundary of its wait, the wait goes down by one at each, and no event is
emitted before it is over. -/
theorem wait_counts_down {n : Nat} {run : Nat → State} (h0 : extWaitNow (run 0).openStep = n)
    (hs : ∀ k ≤ n, (run k).pinsNow.reset = false ∧ RequestStands (run k))
    (hrun : ∀ k < n, step (run k) = .next (run (k + 1))) {k : Nat} (hk : k ≤ n) :
    extWaitNow (run k).openStep = n - k ∧ (0 < k → (run k).extcatch = false) := by
  induction k with
  | zero => exact ⟨h0, fun h => absurd h (by decide)⟩
  | succ k ih =>
    obtain ⟨hreset, hstands⟩ := hs k (by omega)
    have hwait : extWaitNow (run k).openStep = (n - (k + 1)) + 1 := by
      have := (ih (by omega)).1
      omega
    have runs : RunsInstruction (run k) (some (n - (k + 1))) := ⟨hreset, .inr ⟨hstands, _, hwait, rfl⟩⟩
    obtain ⟨hnext, hcatch⟩ := step_of_runsInstruction_next runs (hrun k (by omega))
    exact ⟨by rw [extWaitNow, State.openStep_extWait, hnext], fun _ => hcatch⟩

/-- The acceptance condition fails where EXTINT_IN or every EIE it may test is 0 (60_exceptions.md R243). -/
theorem not_requestStands {s : State}
    (h : s.pinsNow.extint = false ∨ (s.sr.eie = false ∧ OutsideStatusWindow s) ∨
      (s.sr.eie = false ∧ s.trk.srOld.eie = false)) : ¬RequestStands s := by
  rintro ⟨hext, hout, hin⟩
  rcases h with h | ⟨h, hw⟩ | ⟨h, hold⟩
  · rw [h] at hext; cases hext
  · have := hout hw; rw [h] at this; cases this
  · by_cases hw : OutsideStatusWindow s
    · have := hout hw; rw [h] at this; cases this
    · have := hin hw; rw [h, hold, ite_self] at this; cases this

/-! ### Fetch -/

theorem fetchAddress_toNat (pc : Word) : (fetchAddress pc).toNat = pc.toNat / 4 * 4 := align4_toNat pc

/-- A fetch comes to the platform when pc is aligned or is rounded down (92_eei_decisions.md D9). -/
theorem fetch_not_refused {s : State} (h : s.pc.toNat % 4 = 0 ∨ Config.fetchMisalign = .roundDown) :
    ¬(s.pc &&& 3#32 ≠ 0#32 ∧ Config.fetchMisalign = .refuse) := by
  rintro ⟨hpc, hrefuse⟩
  rcases h with h | h
  · exact hpc ((low_bits_zero s.pc).mpr h)
  · rw [h] at hrefuse; cases hrefuse

theorem fetch_word {s : State} {w : Word} (h : s.pc.toNat % 4 = 0 ∨ Config.fetchMisalign = .roundDown)
    (hw : instrWordAt s.imem (s.pc.toNat / 4 * 4) = some w) : fetch s = .word w := by
  rw [fetch, if_neg (fetch_not_refused h), fetchAddress_toNat, hw]

theorem fetch_unbacked {s : State} (h : s.pc.toNat % 4 = 0 ∨ Config.fetchMisalign = .roundDown)
    (hw : instrWordAt s.imem (s.pc.toNat / 4 * 4) = none) : fetch s = .fault .fetchNotBacked := by
  rw [fetch, if_neg (fetch_not_refused h), fetchAddress_toNat, hw]

theorem fetch_misaligned {s : State} (h : s.pc.toNat % 4 ≠ 0) (hc : Config.fetchMisalign = .refuse) :
    fetch s = .refused .misalignedFetch := by
  rw [fetch, if_pos ⟨mt (low_bits_zero s.pc).mp h, hc⟩]

/-- The word of four listed bytes. -/
theorem instrWordAt_of_bytes {m : InstrMemory} {a : Nat} {b0 b1 b2 b3 : Byte} (h0 : lookupCell m a = some b0)
    (h1 : lookupCell m (a + 1) = some b1) (h2 : lookupCell m (a + 2) = some b2)
    (h3 : lookupCell m (a + 3) = some b3) : instrWordAt m a = some (wordOfBytes b0 b1 b2 b3) := by
  simp only [instrWordAt, h0, h1, h2, h3]

/-- A word that the platform loads is the word at its address. -/
theorem instrWordAt_load (m : InstrMemory) (a : Nat) (w : Word) : instrWordAt (m.load a (bytesOfWord w)) a = some w := by
  have byte (k : Nat) (hk : k < 4) := lookupCell_load_inside m (bytesOfWord w) a k hk
  exact (instrWordAt_of_bytes (byte 0 (by decide)) (byte 1 (by decide)) (byte 2 (by decide)) (byte 3 (by decide))).trans
    (congrArg some (wordOfBytes_extract w))

/-! ### Reset -/

/-- After a reset every register is 0 (70_reset_and_hazards.md R271). -/
theorem reg_of_cleared {s : State} (hg : s.gpr = Vector.replicate 30 0#32) (hs : s.sr = StatusReg.cleared) (j : RegIdx) :
    s.reg j = 0#32 := by
  have status : statusValue StatusReg.cleared = 0#32 := by decide
  simp [State.reg, hg, hs, status]

/-! ### TRAP -/

/-- Everything a TRAP can do (46_system.md R220, R221). -/
theorem execTrap_cases (off : BitVec 26) (s : State) :
    (iieTested s = false ∧ exec (.trap off) s = .next (s.track .plain).advance) ∨
    (iieTested s = true ∧ off[25] = false ∧ exec (.trap off) s = .next (raiseTrap off (s.track .plain))) ∨
    (iieTested s = true ∧ off[25] = true ∧ exec (.trap off) s = .refused .trapOffsetExtension) := by
  cases ht : iieTested s with
  | false => exact .inl ⟨rfl, by simp [exec, execTrap, ht]⟩
  | true =>
    cases ho : off[25] with
    | false => exact .inr (.inl ⟨rfl, rfl, by simp [exec, execTrap, ht, ho]⟩)
    | true => exact .inr (.inr ⟨rfl, rfl, by simp [exec, execTrap, ht, ho]⟩)

/-- What a taken TRAP does to the state of the instruction (60_exceptions.md R241). -/
theorem raiseTrap_effect (off : BitVec 26) (s : State) :
    EntryEffect (trapBase + off.setWidth 32) s (raiseTrap off (s.track .plain)) :=
  have e := enterInterrupt_effect (trapBase + off.setWidth 32) (s.track .plain)
  ⟨rfl, e.returnAddress, e.others, e.prohibited, e.kernel, rfl, fun _ => rfl, rfl, rfl, rfl, rfl, rfl⟩

/-- Bit 25 of an offset says whether it is 2^25 or more (46_system.md R221). -/
theorem offset_bit25 (off : BitVec 26) : off[25] = decide (2 ^ 25 ≤ off.toNat) := by
  rw [← BitVec.getLsbD_eq_getElem, ← BitVec.msb_eq_getLsbD_last off, BitVec.msb_eq_decide]

/-- The IIE that a TRAP tests is the one that stands, or in the window the old one (70_reset_and_hazards.md R284). -/
theorem iieTested_cases (s : State) :
    iieTested s = s.sr.iie ∨
      (s.trk.sinceSrWrite ≠ .far ∧ s.trk.srDirect = false ∧ iieTested s = s.trk.srOld.iie) := by
  by_cases hw : OutsideStatusWindow s
  · exact .inl (tested_outside_window hw).1
  · have inside : s.trk.sinceSrWrite ≠ .far ∧ s.trk.srDirect = false := by
      simpa [OutsideStatusWindow] using hw
    have window : inStatusWindow s = true := by simp [inStatusWindow, inside]
    rw [iieTested, if_pos window]
    split
    · exact .inl rfl
    · exact .inr ⟨inside.1, inside.2, rfl⟩

/-! ### The statements -/

/-- Settles O49: the wait has counted down to 0 at the last boundary, so that step is the entry. -/
theorem externalLiveness : Obligations.ExternalLiveness := by
  intro n run h0 hs hrun
  refine ⟨fun k hpos hk => (wait_counts_down h0 hs hrun hk).2 hpos, ?_⟩
  obtain ⟨hreset, hstands⟩ := hs n le_rfl
  have expired : extWaitNow (run n).openStep = 0 := by
    rw [(wait_counts_down h0 hs hrun le_rfl).1, Nat.sub_self]
  exact ⟨_, step_of_entry hreset hstands expired, rfl, rfl, (raiseExtInt_effect (run n).openStep none).returnAddress⟩

/-- Settles O47: the step is the entry, whose effect is that of every interrupt entry. -/
theorem externalEntry : Obligations.ExternalEntry :=
  fun s hr hs hw => ⟨_, step_of_entry hr hs hw, raiseExtInt_effect s.openStep none, rfl, rfl, rfl⟩

/-- Settles O48: only the entry emits the event, and it needs the acceptance condition without a reset. -/
theorem externalMasked : Obligations.ExternalMasked := by
  intro s h t ht
  rcases step_next ht with ⟨_, rfl⟩ | ⟨hr, he, _, rfl⟩ | ⟨_, _, _, hx⟩
  · rfl
  · have stands := (extRequested_iff s).mp he
    rcases h with h | h | h | h | h
    · rw [h] at hr; cases hr
    · exact absurd stands (not_requestStands (.inl h))
    · exact absurd stands (not_requestStands (.inr (.inl h)))
    · exact absurd stands (not_requestStands (.inr (.inr h)))
    · exact absurd stands h
  · exact (exec_untouched hx).extcatch

/-- Settles O50: the step is the core's reset of the opened state. -/
theorem resetStep : Obligations.ResetStep :=
  fun s hr => ⟨s.openStep.coreReset, by rw [step, if_pos hr], reg_of_cleared rfl rfl, rfl, rfl, rfl, rfl, rfl, rfl, rfl,
    rfl, rfl, rfl⟩

/-- Settles O51: the registers by the reset of every register, the other fields as the reset state lists them. -/
theorem resetValues : Obligations.ResetValues :=
  ⟨reg_of_cleared rfl rfl, rfl, rfl, rfl, rfl, rfl, rfl, rfl, rfl, rfl, rfl⟩

/-- Settles O52: the boundary runs an instruction, and the fetch reads the four bytes at the aligned pc. -/
theorem stepRunsTheDecodedInstruction : Obligations.StepRunsTheDecodedInstruction := by
  intro s wait b0 b1 b2 b3 i hrun hpc h0 h1 h2 h3 hi _
  have hw : fetch { s.openStep with extWait := wait } = .word (wordOfBytes b0 b1 b2 b3) := by
    refine fetch_word (.inl hpc) ?_
    show instrWordAt s.imem (s.pc.toNat / 4 * 4) = _
    rw [show s.pc.toNat / 4 * 4 = s.pc.toNat by omega]
    exact instrWordAt_of_bytes h0 h1 h2 h3
  have hd : decode (wordOfBytes b0 b1 b2 b3) = .ok i := hi
  rw [step_of_runsInstruction hrun]
  simp only [runInstruction, hw, hd]

/-- Settles O53: an aligned pc and a rounded one come to the platform, a refused one does not; a step carries the stop. -/
theorem fetchOutcomes : Obligations.FetchOutcomes := by
  intro s
  have aligned (h : s.pc.toNat % 4 = 0) : s.pc.toNat / 4 * 4 = s.pc.toNat := by omega
  refine ⟨fun h w hw => fetch_word (.inl h) (by rwa [aligned h]),
    fun h hw => fetch_unbacked (.inl h) (by rwa [aligned h]), fun h hc => fetch_misaligned h hc,
    fun _ hc w hw => fetch_word (.inr hc) hw, fun _ hc hw => fetch_unbacked (.inr hc) hw,
    fun f r => ⟨fun h => ?_, fun h => ?_⟩⟩
  · simp only [runInstruction, h]
  · simp only [runInstruction, h]

/-- Settles O54: the load places the four bytes of the word at the aligned pc. -/
theorem placedWordIsFetched : Obligations.PlacedWordIsFetched := by
  intro s w hpc
  have haddr : (fetchAddress s.pc).toNat = s.pc.toNat := by rw [fetchAddress_toNat]; omega
  have hword : BitVec.ofNat 32 (w % 2 ^ 32) = BitVec.ofNat 32 w := by
    apply BitVec.eq_of_toNat_eq
    simp only [BitVec.toNat_ofNat, Nat.mod_mod]
  have himem : (s.withFetchWord 32 w).imem = s.imem.load s.pc.toNat (bytesOfWord (BitVec.ofNat 32 w)) := by
    rw [State.withFetchWord_imem, haddr, hword]
  refine ⟨fetch_word (.inl hpc) ?_, fun a ha => ?_, rfl, fun hwf => ?_⟩
  · rw [himem, State.withFetchWord_pc, show s.pc.toNat / 4 * 4 = s.pc.toNat by omega]
    exact instrWordAt_load _ _ _
  · rw [himem]
    exact lookupCell_load_outside _ _ ha
  · rw [himem]
    have := s.pc.isLt
    exact InstrMemory.wf_load hwf (by simp only [bytesOfWord, List.length_cons, List.length_nil]; omega)

/-- Settles O41: the effect of a jump to the register's value. -/
theorem jumpRegister : Obligations.JumpRegister :=
  fun s rs1 => ⟨encodeLow_eq _ rs1 rfl, fun hn => ⟨_, guarded_ok hn, jump_effect s _⟩⟩

/-- Settles O42: the target is read in the state before the link is written. -/
theorem jumpRegisterLink : Obligations.JumpRegisterLink :=
  fun s rs1 => ⟨encodeLow_eq _ rs1 rfl, fun hn => ⟨_, guarded_ok hn, link_effect s _⟩⟩

/-- Settles O43: only pc and the trackers change. -/
theorem nopResult : Obligations.NopResult :=
  ⟨rfl, fun s => ⟨_, rfl, (eq_nextPc_iff s _).mp rfl, nopRunAfter_val .nop s.trk.nopRun, rfl, rfl⟩⟩

/-- Settles O45: outside the window the tested IIE is the one that stands, and a small offset is not refused. -/
theorem trapTaken : Obligations.TrapTaken := by
  intro s off
  refine ⟨encodeJP_eq _ off rfl, fun hiie hout hoff => ⟨raiseTrap off (s.track .plain), ?_, ?_, raiseTrap_effect off s,
    ⟨rfl, rfl, rfl, rfl, rfl, rfl⟩, rfl⟩⟩
  · rcases execTrap_cases off s with ⟨ht, _⟩ | ⟨_, _, ha⟩ | ⟨_, ho, _⟩
    · rw [(tested_outside_window hout).1, hiie] at ht; cases ht
    · exact ha
    · rw [offset_bit25, decide_eq_true_eq] at ho; omega
  · show (trapBase + off.setWidth 32).toNat = _
    rw [BitVec.toNat_add, BitVec.toNat_setWidth, trapBase, BitVec.toNat_ofNat]
    omega

/-- Settles O46: the tested IIE is the model's, and the three outcomes of a TRAP are told by it and by bit 25. -/
theorem trapOutcomes : Obligations.TrapOutcomes := by
  intro s off
  refine ⟨iieTested s, iieTested_cases s, ?_⟩
  rcases execTrap_cases off s with ⟨ht, ha⟩ | ⟨ht, ho, ha⟩ | ⟨ht, ho, ha⟩ <;> rw [ht, ha]
  · exact ⟨fun _ => ⟨_, rfl, jump_effect s _⟩, fun h => absurd h (by decide), fun h => absurd h (by decide)⟩
  · have small : ¬2 ^ 25 ≤ off.toNat := by rwa [offset_bit25, decide_eq_false_iff_not] at ho
    exact ⟨fun h => absurd h (by decide), fun _ _ => ⟨_, rfl, raiseTrap_effect off s⟩, fun _ h => absurd h small⟩
  · have large : 2 ^ 25 ≤ off.toNat := by rwa [offset_bit25, decide_eq_true_eq] at ho
    exact ⟨fun h => absurd h (by decide), fun _ h => absurd h (by omega), fun _ _ => rfl⟩

end Sys2Proof.Machine

namespace Sys2Proof

/-- Settles O44: the return sets the fields whatever they were. -/
theorem returnFromInterrupt : Obligations.ReturnFromInterrupt :=
  ⟨rfl, fun _ => ⟨_, rfl, rfl, rfl, rfl, rfl, rfl,
    fun _ hj => Machine.State.reg_congr_gpr (Machine.returnFromInterrupt_gpr _ _) hj, fun _ => rfl, rfl,
    ⟨rfl, rfl, rfl, rfl, rfl, rfl⟩, rfl⟩⟩

end Sys2Proof
end

section
/-!
Integer arithmetic (40_arithmetic.md R110 to R124): the words that the model computes are the stated numbers, the flags are
the stated conditions, and the rest is the one effect of an instruction with a destination.
-/

namespace Sys2Proof.Machine

/-! ### The flags of a sum and of a difference (10_state.md R33) -/

/-- Bit 31 of a word is its sign. -/
theorem bit31_eq_sign (a : Word) : a[31] = decide (a.toInt < 0) := by
  rw [← BitVec.msb_eq_toInt, BitVec.msb_eq_getLsbD_last, BitVec.getLsbD_eq_getElem]

theorem flagZ_iff (r : Word) : flagZ r = true ↔ r.toNat = 0 := beq_zero_iff_toNat r

theorem flagS_iff (r : Word) : flagS r = true ↔ r.toInt < 0 := by
  rw [flagS, bit31_eq_sign, decide_eq_true_eq]

/-- V of a sum: the exact signed sum is out of range. -/
theorem flagsAdd_v_iff (a b : Word) :
    (flagsAdd a b (a + b)).v = true ↔ a.toInt + b.toInt < -2 ^ 31 ∨ 2 ^ 31 ≤ a.toInt + b.toInt := by
  have hsum := BitVec.toInt_add a b
  have := a.toInt_lt; have := a.le_toInt; have := b.toInt_lt; have := b.le_toInt
  simp only [flagsAdd, bit31_eq_sign, Bool.and_eq_true, beq_iff_eq, bne_iff_ne, ne_eq, decide_eq_decide]
  rw [hsum]
  simp only [Int.bmod]
  omega

/-- V of a difference: the exact signed difference is out of range. -/
theorem flagsSub_v_iff (a b : Word) :
    (flagsSub a b (a - b)).v = true ↔ a.toInt - b.toInt < -2 ^ 31 ∨ 2 ^ 31 ≤ a.toInt - b.toInt := by
  have hdiff := BitVec.toInt_sub (x := a) (y := b)
  have := a.toInt_lt; have := a.le_toInt; have := b.toInt_lt; have := b.le_toInt
  simp only [flagsSub, bit31_eq_sign, Bool.and_eq_true, bne_iff_ne, ne_eq, decide_eq_decide]
  rw [hdiff]
  simp only [Int.bmod]
  omega

/-- Flags are equal when the four of them hold under the same conditions. -/
theorem AluFlags.eq_of_iff {f g : AluFlags} (hc : f.c = true ↔ g.c = true) (hz : f.z = true ↔ g.z = true)
    (hs : f.s = true ↔ g.s = true) (hv : f.v = true ↔ g.v = true) : f = g := by
  obtain ⟨fc, fz, fs, fv⟩ := f
  obtain ⟨gc, gz, gs, gv⟩ := g
  simp only [Bool.coe_iff_coe] at hc hz hs hv
  rw [hc, hz, hs, hv]

theorem eq_flagsAdd {a b r : Word} {f : AluFlags} (hr : r = a + b) (hc : f.c = true ↔ 2 ^ 32 ≤ a.toNat + b.toNat)
    (hz : f.z = true ↔ r.toNat = 0) (hs : f.s = true ↔ r.toInt < 0)
    (hv : f.v = true ↔ a.toInt + b.toInt < -2 ^ 31 ∨ 2 ^ 31 ≤ a.toInt + b.toInt) : f = flagsAdd a b (a + b) := by
  subst hr
  exact AluFlags.eq_of_iff (hc.trans decide_eq_true_iff.symm) (hz.trans (flagZ_iff _).symm)
    (hs.trans (flagS_iff _).symm) (hv.trans (flagsAdd_v_iff a b).symm)

theorem eq_flagsSub {a b r : Word} {f : AluFlags} (hr : r = a - b) (hc : f.c = true ↔ b.toNat ≤ a.toNat)
    (hz : f.z = true ↔ r.toNat = 0) (hs : f.s = true ↔ r.toInt < 0)
    (hv : f.v = true ↔ a.toInt - b.toInt < -2 ^ 31 ∨ 2 ^ 31 ≤ a.toInt - b.toInt) : f = flagsSub a b (a - b) := by
  subst hr
  exact AluFlags.eq_of_iff (hc.trans decide_eq_true_iff.symm) (hz.trans (flagZ_iff _).symm)
    (hs.trans (flagS_iff _).symm) (hv.trans (flagsSub_v_iff a b).symm)

/-- A word with the number of a sum is the sum. -/
theorem eq_add_of_toNat {a b r : Word} (h : r.toNat = (a.toNat + b.toNat) % 2 ^ 32) : r = a + b :=
  BitVec.eq_of_toNat_eq (h.trans (BitVec.toNat_add a b).symm)

/-- A word with the number of a difference modulo 2^32 is the difference. -/
theorem eq_sub_of_toNat {a b r : Word} (h : (r.toNat : Int) = ((a.toNat : Int) - b.toNat) % 2 ^ 32) : r = a - b := by
  apply BitVec.eq_of_toNat_eq
  rw [BitVec.toNat_sub]
  have := a.isLt
  have := b.isLt
  omega

/-- A guarded instruction that sets the flags, then ends with a destination. -/
theorem flagged_effect {i : Instr} {checked named : List RegIdx} {rd : RegIdx} {v : Word} {f : AluFlags} {s : State}
    (hexec : exec i s = guarded checked s (finish (.flagged rd) rd v (s.setFlags f))) (hc : checked ⊆ named)
    (hn : NamesOk s named) (hd : DestOk s rd v) :
    ∃ t, exec i s = .next t ∧ RegisterEffect (.flagged rd) f s.bus rd v s t := by
  rw [hexec, guarded_ok (namesOk_of_subset hc hn)]
  exact finish_effect_flags hd

/-! ### Signed and unsigned quotients -/

/-- A word that is not negative is its unsigned number. -/
theorem toInt_of_nonneg {a : Word} (h : 0 ≤ a.toInt) : a.toInt = a.toNat ∧ a.toNat < 2 ^ 31 := by
  have hcond := BitVec.toInt_eq_toNat_cond a
  have := a.isLt
  split at hcond <;> omega

/-- A small number is the signed number of its word. -/
theorem toInt_ofNat_of_lt {n : Nat} (h : n < 2 ^ 31) : (BitVec.ofNat 32 n).toInt = n := by
  have hn : (BitVec.ofNat 32 n).toNat = n := by
    rw [BitVec.toNat_ofNat]
    omega
  rw [BitVec.toInt_eq_toNat_of_lt (by rw [hn]; omega), hn]

/-- The operands whose signed quotient is contingent, by their numbers (40_arithmetic.md R123). -/
theorem divContingentPair_iff (a b : Word) :
    divContingentPair a b = true ↔ b.toInt = 0 ∨ (a.toInt = -2 ^ 31 ∧ b.toInt = -1) := by
  have hb0 : b = 0#32 ↔ b.toInt = 0 := BitVec.toInt_inj.symm
  have ha : a = 0x80000000#32 ↔ a.toInt = -2 ^ 31 := BitVec.toInt_inj.symm
  have hb1 : b = 0xFFFFFFFF#32 ↔ b.toInt = -1 := BitVec.toInt_inj.symm
  simp only [divContingentPair, Bool.or_eq_true, Bool.and_eq_true, beq_iff_eq, hb0, ha, hb1]

/-- The test for a negative operand (40_arithmetic.md R118, R121). -/
theorem negative_operand_iff (a b : Word) : (a[31] || b[31]) = true ↔ a.toInt < 0 ∨ b.toInt < 0 := by
  rw [bit31_eq_sign, bit31_eq_sign, Bool.or_eq_true, decide_eq_true_eq, decide_eq_true_eq]

theorem divSigned_contingent {tick : Nat} {a b : Word} (h : divContingentPair a b = true) :
    divSigned tick a b = Config.divContingent tick ∧ modSigned tick a b = Config.divContingent tick :=
  ⟨if_pos h, if_pos h⟩

theorem divSigned_negative {tick : Nat} {a b : Word} (h : ¬divContingentPair a b = true)
    (hneg : a.toInt < 0 ∨ b.toInt < 0) :
    divSigned tick a b = divSignedNeg a b ∧ modSigned tick a b = modSignedNeg a b := by
  have hsign := (negative_operand_iff a b).mpr hneg
  exact ⟨(if_neg h).trans (if_pos hsign), (if_neg h).trans (if_pos hsign)⟩

/-- For a dividend that is not negative and a positive divisor the signed division is the unsigned one. -/
theorem divSigned_nonneg (tick : Nat) {a b : Word} (ha : 0 ≤ a.toInt) (hb : 0 < b.toInt) :
    divSigned tick a b = BitVec.ofNat 32 (a.toNat / b.toNat) ∧
      modSigned tick a b = BitVec.ofNat 32 (a.toNat % b.toNat) := by
  have hc : ¬divContingentPair a b = true := by
    rw [divContingentPair_iff]
    omega
  have hsign : ¬(a[31] || b[31]) = true := by
    rw [negative_operand_iff]
    omega
  exact ⟨(if_neg hc).trans (if_neg hsign), (if_neg hc).trans (if_neg hsign)⟩

theorem divSigned_nonneg_toInt (tick : Nat) {a b : Word} (ha : 0 ≤ a.toInt) (hb : 0 < b.toInt) :
    (divSigned tick a b).toInt = a.toInt / b.toInt ∧
      (modSigned tick a b).toInt = a.toInt - b.toInt * (a.toInt / b.toInt) := by
  obtain ⟨hdiv, hmod⟩ := divSigned_nonneg tick ha hb
  obtain ⟨haN, halt⟩ := toInt_of_nonneg ha
  obtain ⟨hbN, _⟩ := toInt_of_nonneg hb.le
  have hq := Nat.div_le_self a.toNat b.toNat
  have hm := Nat.mod_le a.toNat b.toNat
  rw [hdiv, hmod, toInt_ofNat_of_lt (by omega), toInt_ofNat_of_lt (by omega), haN, hbN, ← Int.emod_def]
  exact ⟨Int.natCast_ediv _ _, Int.natCast_emod _ _⟩

theorem divUnsigned_of_ne {tick : Nat} {a b : Word} (h : b.toNat ≠ 0) :
    divUnsigned tick a b = BitVec.ofNat 32 (a.toNat / b.toNat) ∧
      modUnsigned tick a b = BitVec.ofNat 32 (a.toNat % b.toNat) := by
  have hb : b ≠ 0#32 := fun e => h (by rw [e]; rfl)
  exact ⟨if_neg hb, if_neg hb⟩

theorem divUnsigned_toNat {tick : Nat} {a b : Word} (h : b.toNat ≠ 0) :
    (divUnsigned tick a b).toNat = a.toNat / b.toNat ∧ (modUnsigned tick a b).toNat = a.toNat % b.toNat := by
  obtain ⟨hdiv, hmod⟩ := divUnsigned_of_ne (tick := tick) (a := a) h
  have := a.isLt
  have hq := Nat.div_le_self a.toNat b.toNat
  have hm := Nat.mod_le a.toNat b.toNat
  rw [hdiv, hmod, BitVec.toNat_ofNat, BitVec.toNat_ofNat]
  exact ⟨Nat.mod_eq_of_lt (by omega), Nat.mod_eq_of_lt (by omega)⟩

/-! ### The two roundings of a negative quotient (40_arithmetic.md R118) -/

/-- Truncation: the quotient of the magnitudes with the product of the signs. -/
theorem tdiv_eq_sign_mul_natAbs (a b : Int) : a.tdiv b = a.sign * b.sign * (a.natAbs / b.natAbs : Nat) := by
  have positive {n : Nat} (h : n ≠ 0) : (n : Int).sign = 1 := Int.sign_natCast_of_ne_zero h
  obtain ⟨m, ha⟩ := a.eq_nat_or_neg
  obtain ⟨n, hb⟩ := b.eq_nat_or_neg
  by_cases hm : m = 0
  · rcases ha with rfl | rfl <;> simp [hm]
  by_cases hn : n = 0
  · rcases hb with rfl | rfl <;> simp [hn]
  rcases ha with rfl | rfl <;> rcases hb with rfl | rfl <;> simp [positive hm, positive hn]

/-- Rounding down: the floor of the rational quotient. -/
theorem floor_div_eq_fdiv (a b : Int) : Int.floor ((a : ℚ) / b) = a.fdiv b := by
  obtain ⟨n, rfl | rfl⟩ := b.eq_nat_or_neg
  · rw [Int.cast_natCast, Rat.floor_intCast_div_natCast, Int.fdiv_eq_ediv_of_nonneg _ (Int.natCast_nonneg n)]
  · rw [← Int.neg_fdiv_neg, neg_neg, Int.fdiv_eq_ediv_of_nonneg _ (Int.natCast_nonneg n),
      ← Rat.floor_intCast_div_natCast, Int.cast_neg, Int.cast_neg, Int.cast_natCast, div_neg, neg_div]

/-- A word whose signed number is the rounded quotient is what DIV writes for a negative operand. -/
theorem eq_divSignedNeg {a b r : Word}
    (htrunc : Config.divRounding = .trunc → r.toInt = a.toInt.sign * b.toInt.sign * (a.toInt.natAbs / b.toInt.natAbs : Nat))
    (hfloor : Config.divRounding = .floor → r.toInt = Int.floor ((a.toInt : ℚ) / b.toInt)) : r = divSignedNeg a b := by
  rw [divSignedNeg]
  cases hc : Config.divRounding with
  | trunc => exact (BitVec.ofInt_toInt.symm).trans (congrArg _ ((htrunc hc).trans (tdiv_eq_sign_mul_natAbs _ _).symm))
  | floor => exact (BitVec.ofInt_toInt.symm).trans (congrArg _ ((hfloor hc).trans (floor_div_eq_fdiv _ _)))

/-- An exact quotient other than that of the overflow pair is in range. -/
theorem exact_quotient_range {a b q : Int} (hq : q * b = a) (hlow : -2 ^ 31 ≤ a) (hhigh : a < 2 ^ 31) (hb : b ≠ 0)
    (hpair : ¬(a = -2 ^ 31 ∧ b = -1)) : -2 ^ 31 ≤ q ∧ q < 2 ^ 31 := by
  subst hq
  rcases lt_or_gt_of_ne hb with hneg | hpos
  · by_cases hb1 : b = -1
    · subst hb1
      omega
    · have hb2 : b ≤ -2 := by omega
      constructor <;> nlinarith
  · constructor <;> nlinarith

/-- An exact quotient gives the dividend back under either rounding. -/
theorem divSigned_exact (tick : Nat) {a b : Word} (hc : ¬divContingentPair a b = true) (hexact : a.toInt % b.toInt = 0) :
    (divSigned tick a b).toInt * b.toInt = a.toInt := by
  have hne : b.toInt ≠ 0 := fun e => hc ((divContingentPair_iff a b).mpr (.inl e))
  have hq : a.toInt / b.toInt * b.toInt = a.toInt := Int.ediv_mul_cancel_of_emod_eq_zero hexact
  suffices hdiv : (divSigned tick a b).toInt = a.toInt / b.toInt by rw [hdiv, hq]
  by_cases hneg : a.toInt < 0 ∨ b.toInt < 0
  · have hdvd : b.toInt ∣ a.toInt := Int.dvd_of_emod_eq_zero hexact
    have hword : divSignedNeg a b = BitVec.ofInt 32 (a.toInt / b.toInt) := by
      rw [divSignedNeg]
      cases Config.divRounding with
      | trunc => exact congrArg (BitVec.ofInt 32) (Int.tdiv_eq_ediv_of_dvd hdvd)
      | floor => exact congrArg (BitVec.ofInt 32) (Int.fdiv_eq_ediv_of_dvd hdvd)
    obtain ⟨hlow, hhigh⟩ := exact_quotient_range hq a.le_toInt a.toInt_lt hne
      (fun e => hc ((divContingentPair_iff a b).mpr (.inr e)))
    rw [(divSigned_negative hc hneg).1, hword]
    exact BitVec.toInt_ofInt_eq_self (by decide) hlow hhigh
  · exact (divSigned_nonneg_toInt tick (by omega) (by omega)).1

/-- The destination of an RR-type instruction with value `v` holds `v` afterwards. -/
theorem reg_of_exec_next {i : Instr} {s t : State} {names : List RegIdx} {k : Executed} {rd : RegIdx} {v : Word}
    (hexec : exec i s = guarded names s (finish k rd v s)) (h : exec i s = .next t) (h0 : rd ≠ zeroReg)
    (h1 : rd ≠ statusReg) : t.reg rd = v := by
  rw [hexec] at h
  exact (finish_next (guarded_next h).2).2.dest h0 h1

/-! ### The statements -/

/-- Settles O14: a word with the number of the sum is the model's sum, flags under the stated conditions are its flags. -/
theorem additionResult : Obligations.AdditionResult := by
  intro s rd rs1 rs2 imm i w named a b r f ha hrow hr hc hz hs hv
  obtain rfl := eq_flagsAdd (eq_add_of_toNat hr) hc hz hs hv
  obtain rfl := eq_add_of_toNat hr
  subst ha
  simp only [List.mem_cons, List.not_mem_nil, or_false, Prod.mk.injEq] at hrow
  rcases hrow with ⟨rfl, rfl, rfl, rfl⟩ | ⟨rfl, rfl, rfl, rfl⟩
  · exact ⟨encodeRR_eq _ rd rs1 rs2 rfl, flagged_effect rfl (rr_operands_subset rd rs1 rs2)⟩
  · exact ⟨encodeRI_eq _ imm rs1 rd rfl, flagged_effect rfl (ri_operands_subset rd rs1)⟩

/-- Settles O15: the same for the difference, whose carry is the absence of a borrow. -/
theorem subtractionResult : Obligations.SubtractionResult := by
  intro s rd rs1 rs2 imm i w named a b r f ha hrow hr hc hz hs hv
  obtain rfl := eq_flagsSub (eq_sub_of_toNat hr) hc hz hs hv
  obtain rfl := eq_sub_of_toNat hr
  subst ha
  simp only [List.mem_cons, List.not_mem_nil, or_false, Prod.mk.injEq] at hrow
  rcases hrow with ⟨rfl, rfl, rfl, rfl⟩ | ⟨rfl, rfl, rfl, rfl⟩
  · exact ⟨encodeRR_eq _ rd rs1 rs2 rfl, flagged_effect rfl (rr_operands_subset rd rs1 rs2)⟩
  · exact ⟨encodeRI_eq _ imm rs1 rd rfl, flagged_effect rfl (ri_operands_subset rd rs1)⟩

/-- Settles O16: the word of the signed product is the product of the words. -/
theorem multiplicationResult : Obligations.MultiplicationResult := by
  intro s rd rs1 rs2 r hr
  rw [BitVec.ofInt_mul, BitVec.ofInt_toInt, BitVec.ofInt_toInt] at hr
  exact register_form rfl rfl rfl hr

/-- Settles O17: the signed numbers of the model's quotient and remainder are the stated ones. -/
theorem divisionOfNonNegative : Obligations.DivisionOfNonNegative := by
  intro s rd rs1 rs2 i base a b r p ha hb hnonneg hpos hrow hp
  obtain ⟨hdiv, hmod⟩ := divSigned_nonneg_toInt s.tick hnonneg hpos
  subst ha hb
  simp only [List.mem_cons, List.not_mem_nil, or_false, Prod.mk.injEq] at hrow
  rcases hrow with ⟨rfl, rfl, rfl⟩ | ⟨rfl, rfl, rfl⟩
  · exact register_form rfl rfl rfl (BitVec.eq_of_toInt_eq (hp.trans hdiv.symm))
  · exact register_form rfl rfl rfl (BitVec.eq_of_toInt_eq (hp.trans hmod.symm))

/-- Settles O18: truncation and rounding down are the two quotients of the model. -/
theorem divisionOfNegative : Obligations.DivisionOfNegative := by
  intro s rd rs1 rs2 a b r ha hb hne hpair hneg htrunc hfloor
  have hc : ¬divContingentPair a b = true := by
    rw [divContingentPair_iff]
    exact not_or.mpr ⟨hne, hpair⟩
  have hr : r = divSigned s.tick a b := (eq_divSignedNeg htrunc hfloor).trans (divSigned_negative hc hneg).1.symm
  subst ha hb
  exact (register_form rfl rfl rfl hr).2

/-- Settles O19: the free function has 31 bits, so its result is not negative. -/
theorem moduloOfNegative : Obligations.ModuloOfNegative := by
  intro a b
  refine ⟨?_, fun s rd rs1 rs2 ha hb hne hpair hneg => ?_⟩
  · have hlt := (Config.modSignedNeg a b).isLt
    have hN : (modSignedNeg a b).toNat = (Config.modSignedNeg a b).toNat := by
      rw [modSignedNeg, BitVec.toNat_setWidth]
      omega
    rw [BitVec.toInt_eq_toNat_of_lt (by omega)]
    exact Int.natCast_nonneg _
  · have hc : ¬divContingentPair a b = true := by
      rw [divContingentPair_iff]
      exact not_or.mpr ⟨hne, hpair⟩
    have hr := (divSigned_negative (tick := s.tick) hc hneg).2.symm
    rw [ha, hb] at hr ⊢
    exact (register_form (i := .mod rd rs1 rs2) rfl rfl rfl hr).2

/-- Settles O20: the four instructions write the same draw of the step. -/
theorem contingentDivision : Obligations.ContingentDivision := by
  intro s rd rs1 rs2 i a b p ha hb hrow hp
  have hzero (h : b.toInt = 0) : b = 0#32 := BitVec.eq_of_toInt_eq h
  subst ha hb
  simp only [List.mem_cons, List.not_mem_nil, or_false, Prod.mk.injEq] at hrow
  rcases hrow with ⟨rfl, rfl⟩ | ⟨rfl, rfl⟩ | ⟨rfl, rfl⟩ | ⟨rfl, rfl⟩
  · exact (register_form rfl rfl rfl (divSigned_contingent ((divContingentPair_iff _ _).mpr hp)).1.symm).2
  · exact (register_form rfl rfl rfl (divSigned_contingent ((divContingentPair_iff _ _).mpr hp)).2.symm).2
  · exact (register_form rfl rfl rfl (if_pos (hzero hp)).symm).2
  · exact (register_form rfl rfl rfl (if_pos (hzero hp)).symm).2

/-- Settles O21: the numbers of the model's unsigned quotient and remainder are the stated ones. -/
theorem unsignedDivision : Obligations.UnsignedDivision := by
  intro s rd rs1 rs2 i base a b r p ha hb hne hrow hp
  obtain ⟨hdiv, hmod⟩ := divUnsigned_toNat (tick := s.tick) (a := a) hne
  have hrem : a.toNat - b.toNat * (a.toNat / b.toNat) = a.toNat % b.toNat := by
    have := Nat.div_add_mod a.toNat b.toNat
    omega
  rw [hrem] at hrow
  subst ha hb
  simp only [List.mem_cons, List.not_mem_nil, or_false, Prod.mk.injEq] at hrow
  rcases hrow with ⟨rfl, rfl, rfl⟩ | ⟨rfl, rfl, rfl⟩
  · exact register_form rfl rfl rfl (BitVec.eq_of_toNat_eq (hp.trans hdiv.symm))
  · exact register_form rfl rfl rfl (BitVec.eq_of_toNat_eq (hp.trans hmod.symm))

/-- Settles O22: each law is a law of the values that the instructions write. -/
theorem divisionLaws : Obligations.DivisionLaws := by
  intro s t u rd rs1 rs2 a b ha hb hne h0 h1
  have hbInt : b.toInt ≠ 0 := fun e => hne (by rw [show b = 0#32 from BitVec.eq_of_toInt_eq e]; rfl)
  have hdivu := divUnsigned_toNat (tick := s.tick) (a := a) hne
  refine ⟨fun ht hu => ?_, fun ht hexact hpair => ?_, fun ht hu hnonneg hpos => ?_, fun ht hu hnonneg hpos => ?_⟩ <;>
    rw [reg_of_exec_next rfl ht h0 h1]
  · rw [reg_of_exec_next rfl hu h0 h1, ← ha, ← hb, hdivu.1, hdivu.2]
    exact ⟨(Nat.div_add_mod' a.toNat b.toNat).symm, Nat.mod_lt _ (by omega)⟩
  · rw [← ha, ← hb]
    exact divSigned_exact s.tick (by rw [divContingentPair_iff]; exact not_or.mpr ⟨hbInt, hpair⟩) hexact
  · rw [reg_of_exec_next rfl hu h0 h1, ← ha, ← hb, (divSigned_nonneg s.tick hnonneg hpos).1,
      (divUnsigned_of_ne hne).1]
  · rw [reg_of_exec_next rfl hu h0 h1, ← ha, ← hb, (divSigned_nonneg s.tick hnonneg hpos).2,
      (divUnsigned_of_ne hne).2]

/-- Settles O30: EXHW is an RT-type instruction that writes the sign extension of the low halfword. -/
theorem extendHalfword : Obligations.ExtendHalfword := by
  intro s rd rs1 r hr
  exact extension_form rfl rfl rfl (BitVec.eq_of_toInt_eq (hr.trans (signExtend_low_toInt _ (by decide)).symm))

end Sys2Proof.Machine
end

section
/-!
Loads and stores (20_memory.md R55 to R69, 44_load_store.md R175 to R184, 70_reset_and_hazards.md R280): the addresses, the
value of a load from its bytes, the effect of a store, the stop at an unbacked byte, a load of what was stored, and the
delayed-load slot.
-/

namespace Sys2Proof.Machine

/-! ### The value of a load -/

/-- The effective address with the stated number is the model's (20_memory.md R57). -/
theorem eq_loadAddress {s : State} {rs1 : RegIdx} {off : Half} {ea : Word}
    (h : (ea.toNat : Int) = ((readReg s .first rs1).toNat + off.toInt) % 2 ^ 32) : ea = loadAddress s rs1 off :=
  (eq_add_signExtend_iff ea _ off).mpr h

theorem eq_align2 {ea ad : Word} (h : ad.toNat = ea.toNat / 2 * 2) : ad = align2 ea :=
  BitVec.eq_of_toNat_eq (h.trans (align2_toNat ea).symm)

theorem eq_align4 {ea ad : Word} (h : ad.toNat = ea.toNat / 4 * 4) : ad = align4 ea :=
  BitVec.eq_of_toNat_eq (h.trans (align4_toNat ea).symm)

theorem memRead2_of_bytes {s : State} {a : Word} {b0 b1 : Byte} (h0 : dataByte s a.toNat = some b0)
    (h1 : dataByte s (a.toNat + 1) = some b1) : memRead2 s a = some (b0 ++ b1) := by
  simp only [memRead2, h0, h1]

theorem memRead4_of_bytes {s : State} {a : Word} {b0 b1 b2 b3 : Byte} (h0 : dataByte s a.toNat = some b0)
    (h1 : dataByte s (a.toNat + 1) = some b1) (h2 : dataByte s (a.toNat + 2) = some b2)
    (h3 : dataByte s (a.toNat + 3) = some b3) : memRead4 s a = some (wordOfBytes b0 b1 b2 b3) := by
  simp only [memRead4, h0, h1, h2, h3]

/-- A word with the signed number of a byte is its sign extension. -/
theorem eq_sext8 {r : Word} {b : Byte} (h : r.toInt = b.toInt) : r = sext8 b :=
  BitVec.eq_of_toInt_eq (h.trans (BitVec.toInt_signExtend_of_le (by decide)).symm)

/-- Two bytes, big endian: the first one carries the sign. -/
theorem append_bytes_toInt (b0 b1 : Byte) : (b0 ++ b1).toInt = b0.toInt * 2 ^ 8 + b1.toNat := by
  have hhalf := BitVec.toInt_eq_toNat_cond (b0 ++ b1)
  have hbyte := BitVec.toInt_eq_toNat_cond b0
  rw [toNat_append_add] at hhalf
  have := b1.isLt
  split at hhalf <;> split at hbyte <;> omega

theorem eq_sext16 {r : Word} {b0 b1 : Byte} (h : r.toInt = b0.toInt * 2 ^ 8 + b1.toNat) : r = sext16 (b0 ++ b1) :=
  BitVec.eq_of_toInt_eq
    ((h.trans (append_bytes_toInt b0 b1).symm).trans (BitVec.toInt_signExtend_of_le (by decide)).symm)

/-- A sign extension as a number: the low `n` bits brought into the signed range. -/
theorem signExtend_toInt_bmod {n : Nat} (x : BitVec n) {m : Nat} (hn : n ≤ 32) (hx : x.toNat = m % 2 ^ n) :
    (x.signExtend 32).toInt = (m : Int).bmod (2 ^ n) := by
  rw [BitVec.toInt_signExtend_of_le hn, BitVec.toInt_eq_toNat_bmod, hx, Int.natCast_emod, Int.emod_bmod]

/-- An MA-type load whose bytes give the value `r`, under the two-NOP rule for its two registers. -/
theorem load_form {s : State} {rd rs1 : RegIdx} {off : Half} {i : Instr} {opcode : BitVec 6} {base a r : Word}
    {m : BusMode} {o : Option Word} (henc : encode i = encodeRI opcode off rs1 rd) (hbase : base = 0#26 ++ opcode)
    (hexec : exec i s = guarded [rs1, rd] s (finishLoad rd m a o s)) (ho : o = some r) :
    encode i = riWord off rs1 rd base ∧
    (NamesOk s [rd, rs1] → DestOk s rd r →
      ∃ t, exec i s = .next t ∧
        RegisterEffect (.load rd) s.sr.flags (some { mode := m, addr := a, dataOut := none }) rd r s t) := by
  subst ho
  refine ⟨henc.trans (encodeRI_eq opcode off rs1 rd hbase), fun hn hd => ?_⟩
  rw [hexec, guarded_ok (namesOk_of_subset (ri_operands_subset rd rs1) hn)]
  exact finishLoad_effect hd

/-- A load that answers a state had a value, and its destination holds it. -/
theorem load_next {s t : State} {names : List RegIdx} {rd : RegIdx} {m : BusMode} {a : Word} {o : Option Word}
    (h : guarded names s (finishLoad rd m a o s) = .next t) (h0 : rd ≠ zeroReg) (h1 : rd ≠ statusReg) :
    o = some (t.reg rd) := by
  obtain ⟨w, hw, hf⟩ := finishLoad_next (guarded_next h).2
  rw [hw, (finish_next hf).2.dest h0 h1]

/-! ### The effect of a store -/

/-- A store where the platform backs every byte, under the two-NOP rule for its two registers. -/
theorem store_form {s : State} {names : List RegIdx} {i : Instr} {m : BusMode} {a d : Word} {bs : List Byte}
    (hexec : exec i s = guarded names s (finishStore m a d bs s)) (hn : NamesOk s names)
    (hbacked : ∀ k < bs.length, regionAt s.map (a.toNat + k) ≠ none) :
    ∃ t, exec i s = .next t ∧ StoreEffect a.toNat bs { mode := m, addr := a, dataOut := some d } s t := by
  rw [hexec, guarded_ok hn]
  exact finishStore_effect hbacked

/-- A store that answers a state had its effect. -/
theorem store_next {s t : State} {names : List RegIdx} {m : BusMode} {a d : Word} {bs : List Byte}
    (h : guarded names s (finishStore m a d bs s) = .next t) :
    StoreEffect a.toNat bs { mode := m, addr := a, dataOut := some d } s t := by
  obtain ⟨_, hf⟩ := guarded_next h
  obtain ⟨t', ht', effect⟩ := finishStore_effect (m := m) (d := d) (dataBacked_iff.mp (finishStore_next hf).1)
  rw [hf] at ht'
  cases ht'
  exact effect

/-- The bytes of a store to plain memory are what the next load finds there. -/
theorem dataByte_of_stored {s t : State} {a : Nat} {bs : List Byte} {bus : BusAccess} (effect : StoreEffect a bs bus s t)
    {k : Nat} (hk : k < bs.length) (hram : regionAt s.map (a + k) = some .ram) : dataByte t (a + k) = some bs[k] := by
  rw [dataByte, effect.untouched.map, hram, effect.stored k hk hram]

/-! ### Load after store -/

section LoadNext

variable {t u : State} {rd rs : RegIdx} {off : Half} {a : Nat}

theorem lb_next {b : Byte} {m : Nat} (h : exec (.lb rd off rs) t = .next u) (h0 : rd ≠ zeroReg) (h1 : rd ≠ statusReg)
    (ha : (loadAddress t rs off).toNat = a) (hb : dataByte t a = some b) (hm : b.toNat = m % 2 ^ 8) :
    (u.reg rd).toInt = (m : Int).bmod (2 ^ 8) := by
  have hv := load_next h h0 h1
  have hread : memRead1 t (loadAddress t rs off) = some b := by rw [memRead1, ha, hb]
  rw [hread] at hv
  rw [← Option.some.inj hv]
  exact signExtend_toInt_bmod b (by decide) hm

theorem lh_next {b0 b1 : Byte} {m : Nat} (h : exec (.lh rd off rs) t = .next u) (h0 : rd ≠ zeroReg)
    (h1 : rd ≠ statusReg) (ha : (align2 (loadAddress t rs off)).toNat = a) (hb0 : dataByte t a = some b0)
    (hb1 : dataByte t (a + 1) = some b1) (hm : (b0 ++ b1).toNat = m % 2 ^ 16) :
    (u.reg rd).toInt = (m : Int).bmod (2 ^ 16) := by
  subst ha
  have hv := load_next h h0 h1
  rw [memRead2_of_bytes hb0 hb1] at hv
  rw [← Option.some.inj hv]
  exact signExtend_toInt_bmod (b0 ++ b1) (by decide) hm

theorem lw_next {d : Word} (h : exec (.lw rd off rs) t = .next u) (h0 : rd ≠ zeroReg) (h1 : rd ≠ statusReg)
    (hb : ∀ k (hk : k < 4), dataByte t ((align4 (loadAddress t rs off)).toNat + k) = some ((storeBytes4 d)[k]'hk)) :
    u.reg rd = d := by
  have hv := load_next h h0 h1
  have hread := memRead4_of_bytes (hb 0 (by decide)) (hb 1 (by decide)) (hb 2 (by decide)) (hb 3 (by decide))
  rw [hread] at hv
  exact (Option.some.inj hv).symm.trans (wordOfBytes_extract d)

end LoadNext

/-- The byte at place `k` of a stored word, big endian, as a number. -/
theorem storeBytes4_toNat (d : Word) (k : Nat) (hk : k < 4) :
    ((storeBytes4 d)[k]'hk).toNat = d.toNat / 2 ^ (24 - 8 * k) % 2 ^ 8 := by
  interval_cases k <;> exact extract_toNat d _ _

/-! ### Unbacked bytes -/

theorem dataByte_eq_none {s : State} {a : Nat} (h : regionAt s.map a = none) : dataByte s a = none := by
  rw [dataByte, h]

theorem memRead1_unbacked {s : State} {a : Word} (h : ∃ k < 1, regionAt s.map (a.toNat + k) = none) :
    memRead1 s a = none := by
  obtain ⟨k, hk, hnone⟩ := h
  obtain rfl : k = 0 := by omega
  exact dataByte_eq_none hnone

theorem memRead2_unbacked {s : State} {a : Word} (h : ∃ k < 2, regionAt s.map (a.toNat + k) = none) :
    memRead2 s a = none := by
  obtain ⟨k, hk, hnone⟩ := h
  have hb := dataByte_eq_none hnone
  simp only [memRead2]
  split
  · next h0 h1 => interval_cases k <;> simp_all
  · rfl

theorem memRead4_unbacked {s : State} {a : Word} (h : ∃ k < 4, regionAt s.map (a.toNat + k) = none) :
    memRead4 s a = none := by
  obtain ⟨k, hk, hnone⟩ := h
  have hb := dataByte_eq_none hnone
  simp only [memRead4]
  split
  · next h0 h1 h2 h3 => interval_cases k <;> simp_all
  · rfl

theorem finishStore_unbacked {s : State} {m : BusMode} {a d : Word} {bs : List Byte}
    (h : ∃ k < bs.length, regionAt s.map (a.toNat + k) = none) : finishStore m a d bs s = .fault .dataNotBacked := by
  obtain ⟨k, hk, hnone⟩ := h
  have hb : ¬dataBacked s a.toNat bs.length = true := fun hall => dataBacked_iff.mp hall k hk hnone
  simp only [finishStore, memWrite, if_neg hb]

/-! ### The statements -/

/-- Settles O31: the sign-extended offset is added modulo 2^32. -/
theorem addressFormation : Obligations.AddressFormation :=
  fun _ _ off => ⟨(eq_add_signExtend_iff _ _ off).mp rfl, (eq_add_signExtend_iff _ _ off).mp rfl,
    fun ea => ⟨align2_toNat ea, align4_toNat ea⟩⟩

/-- Settles O32: the bytes at the rounded address make up the value that the load writes. -/
theorem loadResult : Obligations.LoadResult := by
  intro s rd rs1 off i opc m ea ad r p hea hrow hp
  obtain rfl := eq_loadAddress hea
  simp only [List.mem_cons, List.not_mem_nil, or_false, Prod.mk.injEq] at hrow
  rcases hrow with ⟨rfl, rfl, rfl, rfl⟩ | ⟨rfl, rfl, rfl, rfl⟩ | ⟨rfl, rfl, rfl, rfl⟩
  · obtain ⟨rfl, b0, h0, hr⟩ := hp
    have hread : memRead1 s (loadAddress s rs1 off) = some b0 := h0
    exact load_form rfl rfl rfl (by rw [hread, eq_sext8 hr]; rfl)
  · obtain ⟨had, b0, b1, h0, h1, hr⟩ := hp
    obtain rfl := eq_align2 had
    exact load_form rfl rfl rfl (by rw [memRead2_of_bytes h0 h1, eq_sext16 hr]; rfl)
  · obtain ⟨had, b0, b1, b2, b3, h0, h1, h2, h3, hr⟩ := hp
    obtain rfl := eq_align4 had
    have hword : r = wordOfBytes b0 b1 b2 b3 := BitVec.eq_of_toNat_eq (hr.trans (wordOfBytes_toNat b0 b1 b2 b3).symm)
    exact load_form rfl rfl rfl (by rw [memRead4_of_bytes h0 h1 h2 h3, hword])

/-- Settles O33: where every byte is plain memory the store has its effect; SW drives the data lines with its word. -/
theorem storeResult : Obligations.StoreResult := by
  intro s rd rs1 off i opc m ad v bs hv hrow
  subst hv
  simp only [List.mem_cons, List.not_mem_nil, or_false, Prod.mk.injEq] at hrow
  have backed (hram : ∀ k < bs.length, regionAt s.map (ad.toNat + k) = some .ram) :
      ∀ k < bs.length, regionAt s.map (ad.toNat + k) ≠ none := fun k hk => by rw [hram k hk]; simp
  rcases hrow with ⟨rfl, rfl, rfl, rfl, rfl⟩ | ⟨rfl, rfl, rfl, rfl, rfl⟩ | ⟨rfl, rfl, rfl, rfl, rfl⟩
  · refine ⟨encodeRI_eq _ off rs1 rd rfl, fun hn hram => ?_⟩
    obtain ⟨t, ht, effect⟩ := store_form (i := .sb off rd rs1) rfl hn (backed hram)
    exact ⟨t, _, ht, effect, fun h => by cases h⟩
  · refine ⟨encodeRI_eq _ off rs1 rd rfl, fun hn hram => ?_⟩
    obtain ⟨t, ht, effect⟩ := store_form (i := .sh off rd rs1) rfl hn (backed hram)
    exact ⟨t, _, ht, effect, fun h => by cases h⟩
  · refine ⟨encodeRI_eq _ off rs1 rd rfl, fun hn hram => ?_⟩
    obtain ⟨t, ht, effect⟩ := store_form (i := .sw off rd rs1) rfl hn (backed hram)
    exact ⟨t, _, ht, effect, fun _ => rfl⟩

/-- Settles O34: the effect of a store speaks of plain memory and of devices byte by byte. -/
theorem storeToDevice : Obligations.StoreToDevice := by
  intro s rd rs1 off i m ad v d bs hv hrow hn hbacked
  subst hv
  simp only [List.mem_cons, List.not_mem_nil, or_false, Prod.mk.injEq] at hrow
  rcases hrow with ⟨rfl, rfl, rfl, rfl, rfl⟩ | ⟨rfl, rfl, rfl, rfl, rfl⟩ | ⟨rfl, rfl, rfl, rfl, rfl⟩
  · exact store_form (i := .sb off rd rs1) rfl hn hbacked
  · exact store_form (i := .sh off rd rs1) rfl hn hbacked
  · exact store_form (i := .sw off rd rs1) rfl hn hbacked

/-- Settles O35: a load has no value and a store is not admitted where a byte is unbacked. -/
theorem unbackedAccessStops : Obligations.UnbackedAccessStops := by
  intro s rd rs1 off i ad n hrow hn hnone
  have loads : ∀ body : Result, guarded [rs1, rd] s body = body := fun _ =>
    guarded_ok (namesOk_of_subset (ri_operands_subset rd rs1) hn)
  simp only [List.mem_cons, List.not_mem_nil, or_false, Prod.mk.injEq] at hrow
  rcases hrow with ⟨rfl, rfl, rfl⟩ | ⟨rfl, rfl, rfl⟩ | ⟨rfl, rfl, rfl⟩ | ⟨rfl, rfl, rfl⟩ | ⟨rfl, rfl, rfl⟩ |
    ⟨rfl, rfl, rfl⟩
  · simp only [exec, execLb, loads, memRead1_unbacked hnone, Option.map_none, finishLoad]
  · simp only [exec, execLh, loads, memRead2_unbacked hnone, Option.map_none, finishLoad]
  · simp only [exec, execLw, loads, memRead4_unbacked hnone, finishLoad]
  · exact (guarded_ok hn).trans (finishStore_unbacked hnone)
  · exact (guarded_ok hn).trans (finishStore_unbacked hnone)
  · exact (guarded_ok hn).trans (finishStore_unbacked hnone)

/-- Settles O36: the load finds the stored bytes, and these are the big-endian bytes of the data. -/
theorem loadAfterStore : Obligations.LoadAfterStore := by
  intro s t u off off' rd rs1 rd' rs' d ad hd h0 h1
  subst hd
  refine ⟨fun had hram ht => ?_, fun had hram ht haddr hu => ?_, fun had hram ht haddr hu => ?_⟩ <;> subst had
  · have effect := store_next ht
    have stored (k : Nat) (hk : k < 4) := dataByte_of_stored effect hk (hram k hk)
    have number := storeBytes4_toNat (readReg s .second rs1)
    refine ⟨fun haddr hu => lw_next hu h0 h1 (by rw [haddr]; exact stored), fun h hh haddr hu => ?_,
      fun k hk haddr hu => lb_next hu h0 h1 haddr (stored k hk) (number k hk)⟩
    have first : 2 * h < 4 := by omega
    have second : 2 * h + 1 < 4 := by omega
    refine lh_next hu h0 h1 haddr (stored (2 * h) first) (stored (2 * h + 1) second) ?_
    rw [toNat_append_add, number (2 * h) first, number (2 * h + 1) second]
    interval_cases h <;> omega
  · have effect := store_next ht
    have stored (k : Nat) (hk : k < 2) := dataByte_of_stored effect hk (hram k hk)
    refine lh_next hu h0 h1 (congrArg BitVec.toNat haddr) (stored 0 (by decide)) (stored 1 (by decide)) ?_
    show ((readReg s .second rs1).extractLsb' 8 8 ++ (readReg s .second rs1).extractLsb' 0 8).toNat = _
    rw [toNat_append_add, extract_toNat, extract_toNat]
    omega
  · have effect := store_next ht
    refine lb_next hu h0 h1 (congrArg BitVec.toNat haddr) (dataByte_of_stored effect Nat.zero_lt_one hram) ?_
    exact (extract_toNat _ 0 8).trans (by rw [pow_zero, Nat.div_one])

/-- Settles O37: the load leaves its destination in the slot, and the next instruction leaves its own there. -/
theorem delayedLoadSlot : Obligations.DelayedLoadSlot := by
  intro s t rd rs1 off i hi hrd ht
  have hload : i.loadDest = some rd := by
    simp only [List.mem_cons, List.not_mem_nil, or_false] at hi
    rcases hi with rfl | rfl | rfl <;> rfl
  have shadow : t.trk.loadShadow = some rd := by
    rw [(trackersAfterInstruction i s t ht).1, hload]
    simp [Option.filter, hrd]
  refine ⟨fun p => (registerReadFunction t p).2.1 rd hrd shadow, fun p j hj h1 => ?_, fun k u hu hk h1 p => ?_⟩
  · exact readReg_clear p (by rw [shadow]; simpa using hj.symm) fun h => absurd h h1
  · refine readReg_clear p (fun h => hk ?_) fun h => absurd h h1
    rw [(trackersAfterInstruction k t u hu).1] at h
    exact (Option.filter_eq_some_iff.mp h).1

/-- Settles O38: the table, row by row. -/
theorem busModeTable : Obligations.BusModeTable := by
  unfold Obligations.BusModeTable
  decide

end Sys2Proof.Machine
end
